-- ==== Sys2Proof/Word.lean ====
section
/-! DEFINITION. The word types of the block: bytes, 16-bit words and the operand fields of an instruction word
(spec 00_scope.md R8, 30_encoding.md R81). All quantities are unsigned (R11). -/

namespace Sys2Proof

/-- One byte: a memory cell, a general register, a timer (R8). -/
abbrev Byte := BitVec 8

/-- Sixteen bits: an instruction word, `I`, `PC`, a stack entry (R8). -/
abbrev Word := BitVec 16

/-- A 4-bit field: a register index `x` or `y`, or the literal `n` (R81). -/
abbrev Nibble := BitVec 4

/-- The 12-bit address field `nnn` (R81). -/
abbrev Addr12 := BitVec 12

end Sys2Proof
end

