-- ==== Sys2Proof/Syntax.lean ====
section
/-! DEFINITION. The instructions: one constructor per row of spec/opcode_table.json (30_encoding.md R83). An operand is
the field of the word it is read from, so every operand value of the type is legal (R82, R85). -/

namespace Sys2Proof

/-- The 34 instructions of 30_encoding.md R83, in the table's order. -/
inductive Instr where
  /-- 00E0 CLS (R231) -/
  | cls
  /-- 00EE RET (R121) -/
  | ret
  /-- 1nnn JP nnn (R122) -/
  | jp (nnn : Addr12)
  /-- 2nnn CALL nnn (R123) -/
  | call (nnn : Addr12)
  /-- 3xkk SE Vx, kk (R124) -/
  | seImm (x : Nibble) (kk : Byte)
  /-- 4xkk SNE Vx, kk (R125) -/
  | sneImm (x : Nibble) (kk : Byte)
  /-- 5xy0 SE Vx, Vy (R126) -/
  | seReg (x y : Nibble)
  /-- 6xkk LD Vx, kk (R141) -/
  | ldImm (x : Nibble) (kk : Byte)
  /-- 7xkk ADD Vx, kk (R142) -/
  | addImm (x : Nibble) (kk : Byte)
  /-- 8xy0 LD Vx, Vy (R144) -/
  | ldReg (x y : Nibble)
  /-- 8xy1 OR Vx, Vy (R145) -/
  | orReg (x y : Nibble)
  /-- 8xy2 AND Vx, Vy (R146) -/
  | andReg (x y : Nibble)
  /-- 8xy3 XOR Vx, Vy (R147) -/
  | xorReg (x y : Nibble)
  /-- 8xy4 ADD Vx, Vy (R148) -/
  | addReg (x y : Nibble)
  /-- 8xy5 SUB Vx, Vy (R149) -/
  | subReg (x y : Nibble)
  /-- 8xy6 SHR Vx; y is read only when `P_SHIFT_USES_VY` (R85, R150) -/
  | shr (x y : Nibble)
  /-- 8xy7 SUBN Vx, Vy (R151) -/
  | subnReg (x y : Nibble)
  /-- 8xyE SHL Vx; y is read only when `P_SHIFT_USES_VY` (R85, R152) -/
  | shl (x y : Nibble)
  /-- 9xy0 SNE Vx, Vy (R127) -/
  | sneReg (x y : Nibble)
  /-- Annn LD I, nnn (R171) -/
  | ldI (nnn : Addr12)
  /-- Bnnn JP V0, nnn (R128) -/
  | jpV0 (nnn : Addr12)
  /-- Cxkk RND Vx, kk (R156) -/
  | rnd (x : Nibble) (kk : Byte)
  /-- Dxyn DRW Vx, Vy, n (R235) -/
  | drw (x y n : Nibble)
  /-- Ex9E SKP Vx (R211) -/
  | skp (x : Nibble)
  /-- ExA1 SKNP Vx (R212) -/
  | sknp (x : Nibble)
  /-- Fx07 LD Vx, DT (R197) -/
  | ldVxDt (x : Nibble)
  /-- Fx0A LD Vx, K (R214) -/
  | ldVxK (x : Nibble)
  /-- Fx15 LD DT, Vx (R198) -/
  | ldDtVx (x : Nibble)
  /-- Fx18 LD ST, Vx (R199) -/
  | ldStVx (x : Nibble)
  /-- Fx1E ADD I, Vx (R172) -/
  | addI (x : Nibble)
  /-- Fx29 LD F, Vx (R173) -/
  | ldF (x : Nibble)
  /-- Fx33 LD B, Vx (R174) -/
  | ldB (x : Nibble)
  /-- Fx55 LD [I], Vx (R175) -/
  | storeRegs (x : Nibble)
  /-- Fx65 LD Vx, [I] (R176) -/
  | loadRegs (x : Nibble)
  deriving DecidableEq, Repr

end Sys2Proof
end

