-- ==== Sys2Proof/WellFormed.lean ====
section
/-! DEFINITION. Well-formedness. The fields of an instruction word OVERLAP (30_encoding.md R81: `nnn = x ++ y ++ n` and
`kk = y ++ n`), so a set of fields belongs to a word only when both overlaps agree: these are the checks there
are on the way from bits to an instruction. An instruction itself holds no field twice, and every value of every field is a
legal operand (R82: "every value 0 to 15 is a valid register"), so an `Instr` has nothing left to check. -/

namespace Sys2Proof

/-- The fields of an instruction word (R81), before a family says which of them are operands. -/
structure Fields where
  t : Nibble
  x : Nibble
  y : Nibble
  n : Nibble
  kk : Byte
  nnn : Addr12
  deriving DecidableEq, Repr

/-- The byte field is the fields `y` and `n` together (R81). -/
def Fields.byteAgrees (f : Fields) : Bool := f.kk == f.y ++ f.n

/-- The address field is the fields `x`, `y` and `n` together (R81). -/
def Fields.addressAgrees (f : Fields) : Bool := f.nnn == f.x ++ f.y ++ f.n

/-- Fields that some 16-bit word has. -/
def Fields.wellFormed (f : Fields) : Bool := f.byteAgrees && f.addressAgrees

/-- Every instruction is well-formed: its operands are fields of the width the encoding gives them, and no value of a
field is excluded for any of the 34 instructions (R82, R83). -/
def Instr.wellFormed (_ : Instr) : Bool := true

end Sys2Proof
end

