-- ==== Sys2Proof/Decode.lean ====
section
/-! DEFINITION. The decoder, total on any word and any bytes, and the encoder, both written from the opcode map of spec
30_encoding.md R83 (the sub-case nibble of the 8xy_ block is R84; log entry 11). -/

namespace Sys2Proof

/-- The fields of a word (30_encoding.md R81): `tttt xxxx yyyy nnnn`. -/
def fieldsOf (op : Word) : Fields where
  t := op.extractLsb' 12 4
  x := op.extractLsb' 8 4
  y := op.extractLsb' 4 4
  n := op.extractLsb' 0 4
  kk := op.extractLsb' 0 8
  nnn := op.extractLsb' 0 12

/-- The result of decoding a word (40_cycle.md R103): one kind per row of the opcode map, and `unrecognised` for every
other word (30_encoding.md R86). -/
inductive Decoded where
  | instr (i : Instr)
  | unrecognised (op : Word)
  deriving DecidableEq, Repr

/-- Why bytes hold no word: fewer than two of them (R80). -/
inductive DecodeError where
  | truncated
  deriving DecidableEq, Repr

/-- Family 0: only the whole words 00E0 and 00EE (R83, R86). -/
def decodeFamily0 (op : Word) : Decoded :=
  match op.toNat with
  | 0x00E0 => .instr .cls
  | 0x00EE => .instr .ret
  | _ => .unrecognised op

/-- Family 8: the low nibble selects the operation (R83, R84). -/
def decodeFamily8 (op : Word) (f : Fields) : Decoded :=
  match f.n.toNat with
  | 0x0 => .instr (.ldReg f.x f.y)
  | 0x1 => .instr (.orReg f.x f.y)
  | 0x2 => .instr (.andReg f.x f.y)
  | 0x3 => .instr (.xorReg f.x f.y)
  | 0x4 => .instr (.addReg f.x f.y)
  | 0x5 => .instr (.subReg f.x f.y)
  | 0x6 => .instr (.shr f.x f.y)
  | 0x7 => .instr (.subnReg f.x f.y)
  | 0xE => .instr (.shl f.x f.y)
  | _ => .unrecognised op

/-- Family E: the low byte selects the operation (R83). -/
def decodeFamilyE (op : Word) (f : Fields) : Decoded :=
  match f.kk.toNat with
  | 0x9E => .instr (.skp f.x)
  | 0xA1 => .instr (.sknp f.x)
  | _ => .unrecognised op

/-- Family F: the low byte selects the operation (R83). -/
def decodeFamilyF (op : Word) (f : Fields) : Decoded :=
  match f.kk.toNat with
  | 0x07 => .instr (.ldVxDt f.x)
  | 0x0A => .instr (.ldVxK f.x)
  | 0x15 => .instr (.ldDtVx f.x)
  | 0x18 => .instr (.ldStVx f.x)
  | 0x1E => .instr (.addI f.x)
  | 0x29 => .instr (.ldF f.x)
  | 0x33 => .instr (.ldB f.x)
  | 0x55 => .instr (.storeRegs f.x)
  | 0x65 => .instr (.loadRegs f.x)
  | _ => .unrecognised op

/-- Decode on the fields of a word: "a two-level discriminator" (R83), the family first. -/
def decodeFields (op : Word) (f : Fields) : Decoded :=
  match f.t.toNat with
  | 0x0 => decodeFamily0 op
  | 0x1 => .instr (.jp f.nnn)
  | 0x2 => .instr (.call f.nnn)
  | 0x3 => .instr (.seImm f.x f.kk)
  | 0x4 => .instr (.sneImm f.x f.kk)
  | 0x5 => if f.n = 0 then .instr (.seReg f.x f.y) else .unrecognised op
  | 0x6 => .instr (.ldImm f.x f.kk)
  | 0x7 => .instr (.addImm f.x f.kk)
  | 0x8 => decodeFamily8 op f
  | 0x9 => if f.n = 0 then .instr (.sneReg f.x f.y) else .unrecognised op
  | 0xA => .instr (.ldI f.nnn)
  | 0xB => .instr (.jpV0 f.nnn)
  | 0xC => .instr (.rnd f.x f.kk)
  | 0xD => .instr (.drw f.x f.y f.n)
  | 0xE => decodeFamilyE op f
  | _ => decodeFamilyF op f

/-- Decode: a pure, total function of the 16-bit word (40_cycle.md R103). -/
def decode (op : Word) : Decoded := decodeFields op (fieldsOf op)

/-- The word two consecutive bytes hold, most significant byte first (20_memory.md R61). -/
def joinBytes (hi lo : Byte) : Word := hi ++ lo

/-- The two bytes of a word in the order memory holds them (20_memory.md R61). -/
def wordBytes (op : Word) : List Byte := [op.extractLsb' 8 8, op.extractLsb' 0 8]

/-- Decode the first instruction of a list of bytes, and what is left of the list. -/
def decodeBytes : List Byte → Except DecodeError (Decoded × List Byte)
  | hi :: lo :: rest => .ok (decode (joinBytes hi lo), rest)
  | _ => .error .truncated

/-- The word of an instruction, from the patterns of R83. -/
def encode : Instr → Word
  | .cls => 0x00E0#16
  | .ret => 0x00EE#16
  | .jp nnn => 0x1#4 ++ nnn
  | .call nnn => 0x2#4 ++ nnn
  | .seImm x kk => 0x3#4 ++ x ++ kk
  | .sneImm x kk => 0x4#4 ++ x ++ kk
  | .seReg x y => 0x5#4 ++ x ++ y ++ 0x0#4
  | .ldImm x kk => 0x6#4 ++ x ++ kk
  | .addImm x kk => 0x7#4 ++ x ++ kk
  | .ldReg x y => 0x8#4 ++ x ++ y ++ 0x0#4
  | .orReg x y => 0x8#4 ++ x ++ y ++ 0x1#4
  | .andReg x y => 0x8#4 ++ x ++ y ++ 0x2#4
  | .xorReg x y => 0x8#4 ++ x ++ y ++ 0x3#4
  | .addReg x y => 0x8#4 ++ x ++ y ++ 0x4#4
  | .subReg x y => 0x8#4 ++ x ++ y ++ 0x5#4
  | .shr x y => 0x8#4 ++ x ++ y ++ 0x6#4
  | .subnReg x y => 0x8#4 ++ x ++ y ++ 0x7#4
  | .shl x y => 0x8#4 ++ x ++ y ++ 0xE#4
  | .sneReg x y => 0x9#4 ++ x ++ y ++ 0x0#4
  | .ldI nnn => 0xA#4 ++ nnn
  | .jpV0 nnn => 0xB#4 ++ nnn
  | .rnd x kk => 0xC#4 ++ x ++ kk
  | .drw x y n => 0xD#4 ++ x ++ y ++ n
  | .skp x => 0xE#4 ++ x ++ 0x9E#8
  | .sknp x => 0xE#4 ++ x ++ 0xA1#8
  | .ldVxDt x => 0xF#4 ++ x ++ 0x07#8
  | .ldVxK x => 0xF#4 ++ x ++ 0x0A#8
  | .ldDtVx x => 0xF#4 ++ x ++ 0x15#8
  | .ldStVx x => 0xF#4 ++ x ++ 0x18#8
  | .addI x => 0xF#4 ++ x ++ 0x1E#8
  | .ldF x => 0xF#4 ++ x ++ 0x29#8
  | .ldB x => 0xF#4 ++ x ++ 0x33#8
  | .storeRegs x => 0xF#4 ++ x ++ 0x55#8
  | .loadRegs x => 0xF#4 ++ x ++ 0x65#8

/-- One row of the opcode map as spec/opcode_table.json writes it: the bits that are fixed, and their values. -/
structure OpcodeRow where
  mask : Word
  pattern : Word
  deriving DecidableEq, Repr

/-- A word matches a row when its bits equal the row's fixed digits (R83). -/
def OpcodeRow.covers (r : OpcodeRow) (op : Word) : Bool := op &&& r.mask == r.pattern

/-- The row of an instruction: `mask` and `match` of spec/opcode_table.json. -/
def rowOf : Instr → OpcodeRow
  | .cls => ⟨0xFFFF, 0x00E0⟩
  | .ret => ⟨0xFFFF, 0x00EE⟩
  | .jp _ => ⟨0xF000, 0x1000⟩
  | .call _ => ⟨0xF000, 0x2000⟩
  | .seImm _ _ => ⟨0xF000, 0x3000⟩
  | .sneImm _ _ => ⟨0xF000, 0x4000⟩
  | .seReg _ _ => ⟨0xF00F, 0x5000⟩
  | .ldImm _ _ => ⟨0xF000, 0x6000⟩
  | .addImm _ _ => ⟨0xF000, 0x7000⟩
  | .ldReg _ _ => ⟨0xF00F, 0x8000⟩
  | .orReg _ _ => ⟨0xF00F, 0x8001⟩
  | .andReg _ _ => ⟨0xF00F, 0x8002⟩
  | .xorReg _ _ => ⟨0xF00F, 0x8003⟩
  | .addReg _ _ => ⟨0xF00F, 0x8004⟩
  | .subReg _ _ => ⟨0xF00F, 0x8005⟩
  | .shr _ _ => ⟨0xF00F, 0x8006⟩
  | .subnReg _ _ => ⟨0xF00F, 0x8007⟩
  | .shl _ _ => ⟨0xF00F, 0x800E⟩
  | .sneReg _ _ => ⟨0xF00F, 0x9000⟩
  | .ldI _ => ⟨0xF000, 0xA000⟩
  | .jpV0 _ => ⟨0xF000, 0xB000⟩
  | .rnd _ _ => ⟨0xF000, 0xC000⟩
  | .drw _ _ _ => ⟨0xF000, 0xD000⟩
  | .skp _ => ⟨0xF0FF, 0xE09E⟩
  | .sknp _ => ⟨0xF0FF, 0xE0A1⟩
  | .ldVxDt _ => ⟨0xF0FF, 0xF007⟩
  | .ldVxK _ => ⟨0xF0FF, 0xF00A⟩
  | .ldDtVx _ => ⟨0xF0FF, 0xF015⟩
  | .ldStVx _ => ⟨0xF0FF, 0xF018⟩
  | .addI _ => ⟨0xF0FF, 0xF01E⟩
  | .ldF _ => ⟨0xF0FF, 0xF029⟩
  | .ldB _ => ⟨0xF0FF, 0xF033⟩
  | .storeRegs _ => ⟨0xF0FF, 0xF055⟩
  | .loadRegs _ => ⟨0xF0FF, 0xF065⟩

/-- The 34 rows of the opcode map, in the table's order (R83). -/
def opcodeRows : List OpcodeRow :=
  [ rowOf .cls, rowOf .ret, rowOf (.jp 0), rowOf (.call 0), rowOf (.seImm 0 0), rowOf (.sneImm 0 0), rowOf (.seReg 0 0)
  , rowOf (.ldImm 0 0), rowOf (.addImm 0 0), rowOf (.ldReg 0 0), rowOf (.orReg 0 0), rowOf (.andReg 0 0)
  , rowOf (.xorReg 0 0), rowOf (.addReg 0 0), rowOf (.subReg 0 0), rowOf (.shr 0 0), rowOf (.subnReg 0 0)
  , rowOf (.shl 0 0), rowOf (.sneReg 0 0), rowOf (.ldI 0), rowOf (.jpV0 0), rowOf (.rnd 0 0), rowOf (.drw 0 0 0)
  , rowOf (.skp 0), rowOf (.sknp 0), rowOf (.ldVxDt 0), rowOf (.ldVxK 0), rowOf (.ldDtVx 0), rowOf (.ldStVx 0)
  , rowOf (.addI 0), rowOf (.ldF 0), rowOf (.ldB 0), rowOf (.storeRegs 0), rowOf (.loadRegs 0) ]

/-- The 16-bit word whose low `nbits` bits are those of `w` and whose other bits are zero. -/
def tableWord (nbits w : Nat) : Word := BitVec.ofNat 16 (w % 2 ^ nbits)

/-- The instruction the decoder reads from a word of the opcode table, laid out as memory holds it. -/
def decodeTableWord (nbits w : Nat) : Option Instr :=
  match decodeBytes (wordBytes (tableWord nbits w)) with
  | .ok (.instr i, _) => some i
  | _ => none

end Sys2Proof
end

