-- ==== Sys2Proof/Config.lean ====
section
/-! DEFINITION. What an implementation fixes: the configurable parameters of spec 00_scope.md R9, and the free random
byte of 42_alu.md R157. The default values stand in Machine/Defaults.lean. -/

namespace Sys2Proof

/-- `P_SPRITE_EDGE` (46_display.md R234): what becomes of sprite pixels past the screen's edge. -/
inductive SpriteEdge where
  | clip
  | wrap
  deriving DecidableEq, Repr

/-- `P_TICK_MODE` (40_cycle.md R110): the cycle ticks the timers itself, or the host's `tick` input does. -/
inductive TickMode where
  | coupled
  | independent
  deriving DecidableEq, Repr

/-- `P_KEY_INDEX` (45_keypad.md R213): what a key index above 15 does. -/
inductive KeyIndexPolicy where
  | fault
  | mask
  | notPressed
  deriving DecidableEq, Repr

/-- `P_ODD_PC` (40_cycle.md R102): what a fetch at an odd PC does. -/
inductive OddPcPolicy where
  | fetch
  | fault
  deriving DecidableEq, Repr

/-- `P_FONT_WRITE` (20_memory.md R68): what an instruction's write into the font region does. -/
inductive FontWritePolicy where
  | write
  | fault
  deriving DecidableEq, Repr

/-- `P_INIT` (10_state.md R40): what reset leaves where the source gives no value. -/
inductive InitPolicy where
  | zero
  | unspecified
  deriving DecidableEq, Repr

/-- The configurable parameters of 00_scope.md R9. They are configuration, not state (10_state.md R20): no step and
no input writes them. -/
structure Params where
  /-- `P_SHIFT_USES_VY` -/
  shiftUsesVy : Bool
  /-- `P_SPRITE_EDGE` -/
  spriteEdge : SpriteEdge
  /-- `P_FX29_BASE` -/
  fx29Base : Word
  /-- `P_FONT`: 16 glyphs of 5 bytes (R8, R10) -/
  font : Vector (Vector Byte 5) 16
  /-- `P_TICK_MODE` -/
  tickMode : TickMode
  /-- `P_KEY_INDEX` -/
  keyIndex : KeyIndexPolicy
  /-- `P_ODD_PC` -/
  oddPc : OddPcPolicy
  /-- `P_FONT_WRITE` -/
  fontWrite : FontWritePolicy
  /-- `P_INIT` -/
  init : InitPolicy
  deriving DecidableEq, Repr

/-- `RAND` (42_alu.md R157): the byte the oracle answers at its n-th draw. A FREE VALUE: it has no body, so nothing can
be proved of any answer, and a claim holds for every answer (log entry 8). -/
opaque Config.randByte : Nat → Byte

end Sys2Proof
end

