-- ==== Sys2Proof/Machine/Defaults.lean ====
section
/-! DEFINITION. The default values of the parameters (spec 00_scope.md R9, R10). The font bytes are the spec's own
addition from general knowledge (log entry 3); the other defaults are the spec's choices (log entry 2). -/

namespace Sys2Proof.Machine

/-- The default `P_FONT`: the table of R10, one row per hexadecimal digit. -/
def defaultFont : Vector (Vector Byte 5) 16 := #v[
  #v[0xF0, 0x90, 0x90, 0x90, 0xF0],
  #v[0x20, 0x60, 0x20, 0x20, 0x70],
  #v[0xF0, 0x10, 0xF0, 0x80, 0xF0],
  #v[0xF0, 0x10, 0xF0, 0x10, 0xF0],
  #v[0x90, 0x90, 0xF0, 0x10, 0x10],
  #v[0xF0, 0x80, 0xF0, 0x10, 0xF0],
  #v[0xF0, 0x80, 0xF0, 0x90, 0xF0],
  #v[0xF0, 0x10, 0x20, 0x40, 0x40],
  #v[0xF0, 0x90, 0xF0, 0x90, 0xF0],
  #v[0xF0, 0x90, 0xF0, 0x10, 0xF0],
  #v[0xF0, 0x90, 0xF0, 0x90, 0x90],
  #v[0xE0, 0x90, 0xE0, 0x90, 0xE0],
  #v[0xF0, 0x80, 0x80, 0x80, 0xF0],
  #v[0xE0, 0x90, 0x90, 0x90, 0xE0],
  #v[0xF0, 0x80, 0xF0, 0x80, 0xF0],
  #v[0xF0, 0x80, 0xF0, 0x80, 0x80]]

/-- The defaults of R9, "the value this spec uses everywhere unless a rule names the parameter". -/
def defaultParams : Params where
  shiftUsesVy := false
  spriteEdge := .clip
  fx29Base := 0x0050
  font := defaultFont
  tickMode := .coupled
  keyIndex := .fault
  oddPc := .fetch
  fontWrite := .write
  init := .zero

end Sys2Proof.Machine
end

