-- ==== Sys2Proof/Machine/State.lean ====
section
/-! DEFINITION. The state of the block (spec 10_state.md R20), the fault kinds (60_exceptions.md R251) and the state
after reset (10_state.md R40). -/

namespace Sys2Proof.Machine

/-- The halt kinds of R251, each with the info it records. A meaning or the fetch raises a fault as `.fault`; the cycle
then records it in `RUN` (R108). Every one is the spec's own, so stopping with it is SAFE: nothing is claimed of the
hardware that the spec does not say. -/
inductive Fault where
  /-- Raised by a fetch, Dxyn, Fx33, Fx55, Fx65 whose access would use an address above 0xFFF; `a` is the lowest such
  address (R253). Safe. -/
  | addressOutOfRange (a : Nat)
  /-- Raised by 2nnn with `SP = 16`; `pc` is that instruction's address (R255). Safe. -/
  | stackOverflow (pc : Word)
  /-- Raised by 00EE with `SP = 0`; `pc` is that instruction's address (R256). Safe. -/
  | stackUnderflow (pc : Word)
  /-- Raised by the `load` input when the bytes do not fit; `len` is the byte count offered (R260). Safe. -/
  | romTooLarge (len : Nat)
  /-- Raised by Ex9E and ExA1 with `V[x] = v > 15`, only under `P_KEY_INDEX = fault` (R258). Safe. -/
  | keyIndexOutOfRange (v : Byte)
  /-- Raised by a fetch at an odd PC, only under `P_ODD_PC = fault` (R254). Safe. -/
  | misalignedFetch (pc : Word)
  /-- Raised by Fx33 and Fx55 writing 0x050 to 0x09F, only under `P_FONT_WRITE = fault`; `a` is the lowest font address
  written (R259). Safe. -/
  | fontWrite (a : Nat)
  /-- Raised by the `load` input when its range would touch the font or lie below it (R261). Safe. -/
  | loadOverlapsFont (origin : Nat)
  /-- Set by the host's `quit` input, never raised by an instruction (R257). Safe. -/
  | quit
  deriving DecidableEq, Repr

/-- Why an instruction has no meaning. No meaning of this model answers with a refusal. -/
inductive Refusal where
  /-- Answered by `exec` for an instruction that has no meaning yet; none is left. Safe. -/
  | notModelled (mnemonic : String)
  deriving DecidableEq, Repr

/-- `MODE`, the keypad state machine (R33): normal operation, or an Fx0A with `x = r` waiting for a key. -/
inductive KeypadMode where
  | free
  | awaitingKey (r : Nibble)
  deriving DecidableEq, Repr

/-- `RUN` (60_exceptions.md R250). -/
inductive RunStatus where
  | running
  | halted (f : Fault)
  deriving DecidableEq, Repr

/-- `M`: the bytes that differ from what an unlisted address reads as (`unlistedByte`), by rising address. -/
abbrev Memory := List Host.Cell

/-- `D[c][r]`: 64 columns of 32 rows of pixels, true for on (R34). -/
abbrev Display := Vector (Vector Bool 32) 64

/-- Everything the spec gives the machine (R20), and three fields of the model's own: `started`, `draws`, `cfg`. -/
structure State where
  /-- `M`, memory (R36) -/
  mem : Memory
  /-- `V[0..15]`, the general registers (R21) -/
  v : Vector Byte 16
  /-- `I`, the index register (R28) -/
  i : Word
  /-- `PC`, the program counter (R24) -/
  pc : Word
  /-- `S[0..15]`, the stack entries (R29, R30) -/
  stack : Vector Word 16
  /-- `SP`, the number of valid stack entries, 0 to 16 (R29) -/
  sp : Fin 17
  /-- `DT`, the delay timer (R31) -/
  dt : Byte
  /-- `ST`, the sound timer (R31) -/
  st : Byte
  /-- `K[0..15]`, the key flags (R32) -/
  keys : Vector Bool 16
  /-- `MODE`, the keypad mode (R33) -/
  mode : KeypadMode
  /-- `D`, the display buffer (R34) -/
  display : Display
  /-- `RD`, the redraw-needed flag (R35) -/
  redraw : Bool
  /-- `RUN`, the run status (R250) -/
  run : RunStatus
  /-- the model's own: a cycle has run since reset, so `load` is no longer accepted (R55, R284; log entry 7) -/
  started : Bool
  /-- the model's own: how many random bytes have been drawn (R157; log entry 8) -/
  draws : Nat
  /-- the model's own: the parameters of R9, which nothing writes (log entry 1) -/
  cfg : Params
  deriving DecidableEq, Repr

/-- What the reset input is given under `P_INIT = unspecified`: a value for every piece of state that R40 marks
"decided". Cells of `mem` outside memory or inside the font region are ignored. -/
structure InitValues where
  mem : List Host.Cell
  v : Vector Byte 16
  i : Word
  stack : Vector Word 16
  sp : Fin 17
  keys : Vector Bool 16
  mode : KeypadMode
  display : Display
  redraw : Bool
  run : RunStatus
  deriving DecidableEq, Repr

/-- The machine right after reset with every parameter at its default (R40): `PC = 0x200`, the timers at 0, the font in
memory; and the zeros of `P_INIT = zero` for all the source gives no value for (log entry 4). -/
def State.reset : State where
  mem := []
  v := Vector.replicate 16 0
  i := 0
  pc := 0x0200
  stack := Vector.replicate 16 0
  sp := 0
  dt := 0
  st := 0
  keys := Vector.replicate 16 false
  mode := .free
  display := Vector.replicate 64 (Vector.replicate 32 false)
  redraw := false
  run := .running
  started := false
  draws := 0
  cfg := defaultParams

end Sys2Proof.Machine
end

