-- ==== Sys2Proof/Machine/Ops.lean ====
section
/-! DEFINITION. The named operations over the state: memory (spec 20_memory.md), registers, the program counter
(40_cycle.md R104), the stack (10_state.md R29), the timers (44_timers.md R191), the keypad, the display, the random
oracle (42_alu.md R157), and what a fault does (60_exceptions.md R252). -/

namespace Sys2Proof.Machine

/-- What a meaning, a cycle or an input answers. -/
abbrev Result := Host.Outcome State Fault Refusal

/-! ### Memory -/

/-- The number of bytes of memory (R60). -/
def memSize : Nat := 0x1000

/-- The first address of the font region (R67). -/
def fontBase : Nat := 0x050

/-- The first address past the font region, whose last address is 0x09F (R67). -/
def fontEnd : Nat := 0x0A0

/-- `PROG_BASE`, the load origin where none is given, and the PC after reset (00_scope.md R8). -/
def progBase : Nat := 0x200

/-- An address of the font region. -/
def inFont (a : Nat) : Bool := decide (fontBase ≤ a) && decide (a < fontEnd)

/-- What an address that memory does not list reads as: the reset contents (R40), the font at 0x050 to 0x09F and 0x00
elsewhere (log entry 5). -/
def unlistedByte (font : Vector (Vector Byte 5) 16) (a : Nat) : Byte :=
  match font[(a - fontBase) / 5]? with
  | some glyph => if a < fontBase then 0 else (glyph[(a - fontBase) % 5]?).getD 0
  | none => 0

/-- The byte an address holds. -/
def Memory.read (font : Vector (Vector Byte 5) 16) : Memory → Nat → Byte
  | [], a => unlistedByte font a
  | (k, b) :: rest, a => if k = a then b else Memory.read font rest a

/-- Memory without an entry for an address. -/
def Memory.erase (m : Memory) (a : Nat) : Memory := m.filter fun c => c.1 != a

/-- Memory with a new entry, in its place by address. -/
def Memory.insert (c : Host.Cell) : Memory → Memory
  | [] => [c]
  | d :: rest => if c.1 < d.1 then c :: d :: rest else d :: Memory.insert c rest

/-- Memory with a byte written, in canonical form: a byte equal to what an unlisted address reads as is not listed. -/
def Memory.write (font : Vector (Vector Byte 5) 16) (m : Memory) (a : Nat) (b : Byte) : Memory :=
  if b = unlistedByte font a then m.erase a else (m.erase a).insert (a, b)

/-- The canonical form: addresses rise strictly and lie in memory, and no entry is what an unlisted address reads as. -/
abbrev Memory.wf (font : Vector (Vector Byte 5) 16) (m : Memory) : Prop :=
  m.Pairwise (fun c d => c.1 < d.1) ∧ ∀ c ∈ m, c.1 < memSize ∧ c.2 ≠ unlistedByte font c.1

/-- `M[a]` (00_scope.md R12). -/
def State.byteAt (s : State) (a : Nat) : Byte := s.mem.read s.cfg.font a

/-- `M[a] <- b`. -/
def State.storeByte (s : State) (a : Nat) (b : Byte) : State := { s with mem := s.mem.write s.cfg.font a b }

/-- Bytes stored at rising addresses from `a`. -/
def State.storeBytes (s : State) (a : Nat) : List Byte → State
  | [] => s
  | b :: rest => (s.storeByte a b).storeBytes (a + 1) rest

/-- The `n` bytes at rising addresses from `a`. -/
def State.readBytes (s : State) (a n : Nat) : List Byte := (List.range n).map fun k => s.byteAt (a + k)

/-- The address check of R62, over unbounded integers: the fault an access at `a` raises, if any. -/
def addressFault (a : Nat) : Option Fault := if 0xFFF < a then some (.addressOutOfRange a) else none

/-! ### Registers and the program counter -/

/-- `V[x]` (R21). -/
def State.reg (s : State) (x : Nibble) : Byte := s.v[x.toNat]'x.isLt

/-- `V[x] <- b`. -/
def State.setReg (s : State) (x : Nibble) (b : Byte) : State := { s with v := s.v.set x.toNat b x.isLt }

/-- VF, the register that is also the flag output (R23). -/
def vf : Nibble := 0xF

/-- Bytes written to `V[k]`, `V[k+1]`, … in that order. -/
def State.setRegs (s : State) (k : Nat) : List Byte → State
  | [] => s
  | b :: rest => (s.setReg (BitVec.ofNat 4 k) b).setRegs (k + 1) rest

/-- The values of `V[0]` to `V[n-1]`. -/
def State.readRegs (s : State) (n : Nat) : List Byte := (List.range n).map fun k => s.reg (BitVec.ofNat 4 k)

/-- `I <- a`. -/
def State.setI (s : State) (a : Word) : State := { s with i := a }

/-- `PC <- t` (40_cycle.md R104; PC arithmetic is modulo 2^16, R25). -/
def State.setPc (s : State) (t : Word) : State := { s with pc := t }

/-- `npc = PC + 2`: the advance of every instruction that does not redirect control (R104). -/
def State.advance (s : State) : State := s.setPc (s.pc + 2)

/-- A skip: `npc = PC + 4` when it skips, `PC + 2` when it does not (R104, R105). -/
def State.skipIf (s : State) (c : Bool) : State := s.setPc (if c then s.pc + 4 else s.pc + 2)

/-! ### The stack -/

/-- Push (R29): write `S[SP]`, then increment `SP`; nothing when the stack holds 16 entries. -/
def State.push (s : State) (a : Word) : Option State :=
  if h : s.sp.val < 16 then
    some { s with stack := s.stack.set s.sp.val a h, sp := ⟨s.sp.val + 1, Nat.succ_lt_succ h⟩ }
  else none

/-- Pop (R29): decrement `SP`, then read `S[SP]`, which keeps its stale value; nothing when the stack is empty. -/
def State.pop (s : State) : Option (Word × State) :=
  if s.sp.val = 0 then none
  else
    let k : Nat := s.sp.val - 1
    have hk : k < 16 := by have := s.sp.isLt; omega
    some (s.stack[k], { s with sp := ⟨k, Nat.lt_succ_of_lt hk⟩ })

/-! ### Timers -/

/-- `DT <- b`. -/
def State.setDt (s : State) (b : Byte) : State := { s with dt := b }

/-- `ST <- b`. -/
def State.setSt (s : State) (b : Byte) : State := { s with st := b }

/-- One counter's step: down by one while above 0 (R190, R192). -/
def countDown (b : Byte) : Byte := if b = 0 then 0 else b - 1

/-- One timer tick (R191). -/
def State.tickTimers (s : State) : State := { s with dt := countDown s.dt, st := countDown s.st }

/-- The tick at the end of a cycle: only under `P_TICK_MODE = coupled` (R110). -/
def State.tickIfCoupled (s : State) : State :=
  match s.cfg.tickMode with
  | .coupled => s.tickTimers
  | .independent => s

/-! ### Keypad -/

/-- `K[k]` (R32). -/
def State.key (s : State) (k : Fin 16) : Bool := s.keys[k.val]

/-- `K[k] <- pressed`. -/
def State.setKey (s : State) (k : Fin 16) (pressed : Bool) : State :=
  { s with keys := s.keys.set k.val pressed k.isLt }

/-- `MODE <- m`. -/
def State.setMode (s : State) (m : KeypadMode) : State := { s with mode := m }

/-- The lowest-indexed pressed key, if one is pressed (R214). -/
def State.lowestPressed (s : State) : Option (Fin 16) := (List.finRange 16).find? fun k => s.key k

/-! ### Display -/

/-- `D[c][r]` of a display (R34). -/
def Display.get (d : Display) (c : Fin 64) (r : Fin 32) : Bool := (d[c.val])[r.val]

/-- A display with `D[c][r] <- on`. -/
def Display.put (d : Display) (c : Fin 64) (r : Fin 32) (on : Bool) : Display :=
  d.set c.val ((d[c.val]).set r.val on r.isLt) c.isLt

/-- The display with every pixel off. -/
def Display.blank : Display := Vector.replicate 64 (Vector.replicate 32 false)

/-- `D[c][r]`. -/
def State.pixel (s : State) (c : Fin 64) (r : Fin 32) : Bool := Display.get s.display c r

/-- `D <- d`. -/
def State.setDisplay (s : State) (d : Display) : State := { s with display := d }

/-- `RD <- b`. -/
def State.setRedraw (s : State) (b : Bool) : State := { s with redraw := b }

/-! ### The random oracle, the run status -/

/-- The byte the oracle answers at the next draw: a free value (R157; log entry 8). -/
def State.nextRandom (s : State) : Byte := Config.randByte s.draws

/-- The state after one draw from the oracle. -/
def State.drawn (s : State) : State := { s with draws := s.draws + 1 }

/-- `RUN <- r`. -/
def State.setRun (s : State) (r : RunStatus) : State := { s with run := r }

/-- Taking a fault (R252): nothing changes but `RUN`, which records the kind and its info. -/
def State.halt (s : State) (f : Fault) : State := s.setRun (.halted f)

/-- Whether `load` is no longer accepted (R284). -/
def State.setStarted (s : State) (b : Bool) : State := { s with started := b }

/-- The end of a cycle that does not fault: the coupled tick (R110); and a cycle has now run (R284). -/
def State.endCycle (s : State) : State := s.tickIfCoupled.setStarted true

end Sys2Proof.Machine
end

