-- ==== Sys2Proof/Machine/Flags.lean ====
section
/-! DEFINITION. Every flag computation of the block: the VF outcomes of spec 42_alu.md R154 and the rule that the flag
is written last (00_scope.md R14). The collision flag comes with the drawing (Drawing.lean, R236). -/

namespace Sys2Proof.Machine

/-- A flag's value in VF: 1 or 0. -/
def flagByte (b : Bool) : Byte := if b then 1 else 0

/-- 8xy4: the unmodified sum exceeds 255 (R148). -/
def carryOut (a b : Byte) : Bool := decide (255 < a.toNat + b.toNat)

/-- 8xy5 and 8xy7: the left operand is strictly greater than the right; at equality the flag is 0 (R149, R151;
90_conflicts.md C3; log entry 12). -/
def leftGreater (a b : Byte) : Bool := decide (b.toNat < a.toNat)

/-- 8xy6: the bit shifted out on the right (R150). -/
def lowBit (a : Byte) : Bool := a.getLsbD 0

/-- 8xyE: the bit shifted out on the left (R152). -/
def highBit (a : Byte) : Bool := a.getLsbD 7

/-- A result and then its flag: VF is written last, so with `x = F` VF ends holding the flag (R14, R23, R140). -/
def State.setRegFlag (s : State) (x : Nibble) (result : Byte) (flag : Bool) : State :=
  (s.setReg x result).setReg vf (flagByte flag)

end Sys2Proof.Machine
end

