-- ==== Sys2Proof/Machine/Operands.lean ====
section
/-! DEFINITION. The operand forms that are more than a field of the word: the shift source, the glyph address, decimal
digits, the memory range an instruction uses, a key index held in a register, and a sprite's origin, rows and pixels. -/

namespace Sys2Proof.Machine

/-- The source of 8xy6 and 8xyE: `V[y]` under `P_SHIFT_USES_VY`, else `V[x]` (42_alu.md R150, R152). -/
def State.shiftSource (s : State) (x y : Nibble) : Byte := if s.cfg.shiftUsesVy then s.reg y else s.reg x

/-- The address of Fx29: the font base plus five times the value, unmasked, mod 2^16 (43_index_memory.md R173;
90_conflicts.md C1). -/
def State.glyphAddress (s : State) (d : Byte) : Word := BitVec.ofNat 16 (s.cfg.fx29Base.toNat + 5 * d.toNat)

/-- The decimal digits of a byte, hundreds first (43_index_memory.md R174). -/
def decimalDigits (b : Byte) : List Byte :=
  [BitVec.ofNat 8 (b.toNat / 100), BitVec.ofNat 8 (b.toNat / 10 % 10), BitVec.ofNat 8 (b.toNat % 10)]

/-- The range check of R170 and R235 for `len` bytes from `I`, before any access: the lowest address of the range that
lies outside memory. -/
def rangeFault (i : Word) (len : Nat) : Option Fault :=
  if 0 < len ∧ 0xFFF < i.toNat + (len - 1) then some (.addressOutOfRange (max i.toNat memSize)) else none

/-- The font check of R170 for `len` bytes written from `I`: the lowest font address of the range (20_memory.md R68). -/
def State.fontFault (s : State) (len : Nat) : Option Fault :=
  match s.cfg.fontWrite with
  | .write => none
  | .fault =>
    if s.i.toNat < fontEnd ∧ fontBase < s.i.toNat + len then some (.fontWrite (max s.i.toNat fontBase)) else none

/-- The checks of Fx33 and Fx55, the range before the font (60_exceptions.md R263). -/
def State.writeFault (s : State) (len : Nat) : Option Fault :=
  match rangeFault s.i len with
  | some f => some f
  | none => s.fontFault len

/-- `key_pressed(v)` of 45_keypad.md R213, for the value of a register. -/
def State.keyPressed (s : State) (b : Byte) : Except Fault Bool :=
  if h : b.toNat < 16 then .ok (s.key ⟨b.toNat, h⟩)
  else
    match s.cfg.keyIndex with
    | .fault => .error (.keyIndexOutOfRange b)
    | .mask => .ok (s.key ⟨b.toNat % 16, Nat.mod_lt _ (by decide)⟩)
    | .notPressed => .ok false

/-- The origin's column: `V[x] mod 64` (46_display.md R233). -/
def State.originColumn (s : State) (x : Nibble) : Nat := (s.reg x).toNat % 64

/-- The origin's row: `V[y] mod 32` (R233). -/
def State.originRow (s : State) (y : Nibble) : Nat := (s.reg y).toNat % 32

/-- Where a sprite pixel at column `c` and row `r` goes: clipped past the edge, or wrapped (R234). -/
def placePixel (edge : SpriteEdge) (c r : Nat) : Option (Fin 64 × Fin 32) :=
  match edge with
  | .wrap => some (⟨c % 64, Nat.mod_lt _ (by decide)⟩, ⟨r % 32, Nat.mod_lt _ (by decide)⟩)
  | .clip => if h : c < 64 ∧ r < 32 then some (⟨c, h.1⟩, ⟨r, h.2⟩) else none

/-- The pixels one sprite row draws: its 1 bits, bit 7 leftmost (R232), that are not clipped. -/
def rowPixels (edge : SpriteEdge) (ox r : Nat) (b : Byte) : List (Fin 64 × Fin 32) :=
  (List.range 8).filterMap fun k => if b.getLsbD (7 - k) then placePixel edge (ox + k) r else none

/-- The pixels a sprite draws, row after row from row `r` (R232, R235). -/
def spritePixels (edge : SpriteEdge) (ox : Nat) : Nat → List Byte → List (Fin 64 × Fin 32)
  | _, [] => []
  | r, b :: rest => rowPixels edge ox r b ++ spritePixels edge ox (r + 1) rest

end Sys2Proof.Machine
end

