-- ==== Sys2Proof/Machine/Alu.lean ====
section
/-! DEFINITION. Register arithmetic and logic (spec 42_alu.md): 6xkk, 7xkk, 8xy0 to 8xy7, 8xyE, Cxkk. No rule here
faults; operands are read before any write, and a flag is written last (R140). -/

namespace Sys2Proof.Machine

/-- 6xkk LD Vx, kk (R141). -/
def execLdImm (x : Nibble) (kk : Byte) (s : State) : Result := .next (s.setReg x kk).advance

/-- 7xkk ADD Vx, kk (R142): no flag. -/
def execAddImm (x : Nibble) (kk : Byte) (s : State) : Result := .next (s.setReg x (s.reg x + kk)).advance

/-- 8xy0 LD Vx, Vy (R144). -/
def execLdReg (x y : Nibble) (s : State) : Result := .next (s.setReg x (s.reg y)).advance

/-- 8xy1 OR Vx, Vy (R145). -/
def execOrReg (x y : Nibble) (s : State) : Result := .next (s.setReg x (s.reg x ||| s.reg y)).advance

/-- 8xy2 AND Vx, Vy (R146). -/
def execAndReg (x y : Nibble) (s : State) : Result := .next (s.setReg x (s.reg x &&& s.reg y)).advance

/-- 8xy3 XOR Vx, Vy (R147). -/
def execXorReg (x y : Nibble) (s : State) : Result := .next (s.setReg x (s.reg x ^^^ s.reg y)).advance

/-- 8xy4 ADD Vx, Vy (R148): VF is the carry. -/
def execAddReg (x y : Nibble) (s : State) : Result :=
  .next (s.setRegFlag x (s.reg x + s.reg y) (carryOut (s.reg x) (s.reg y))).advance

/-- 8xy5 SUB Vx, Vy (R149): `V[x] - V[y]`, VF is 1 when `V[x] > V[y]`. -/
def execSubReg (x y : Nibble) (s : State) : Result :=
  .next (s.setRegFlag x (s.reg x - s.reg y) (leftGreater (s.reg x) (s.reg y))).advance

/-- 8xy6 SHR Vx (R150): VF is the bit shifted out. -/
def execShr (x y : Nibble) (s : State) : Result :=
  .next (s.setRegFlag x (s.shiftSource x y >>> 1) (lowBit (s.shiftSource x y))).advance

/-- 8xy7 SUBN Vx, Vy (R151): `V[y] - V[x]`, VF is 1 when `V[y] > V[x]`. -/
def execSubnReg (x y : Nibble) (s : State) : Result :=
  .next (s.setRegFlag x (s.reg y - s.reg x) (leftGreater (s.reg y) (s.reg x))).advance

/-- 8xyE SHL Vx (R152): VF is the bit shifted out. -/
def execShl (x y : Nibble) (s : State) : Result :=
  .next (s.setRegFlag x (s.shiftSource x y <<< 1) (highBit (s.shiftSource x y))).advance

/-- Cxkk RND Vx, kk (R156): a free byte of the oracle, masked; every execution draws once (R157). -/
def execRnd (x : Nibble) (kk : Byte) (s : State) : Result :=
  .next (s.drawn.setReg x (s.nextRandom &&& kk)).advance

end Sys2Proof.Machine
end

