-- ==== Sys2Proof/Machine/Control.lean ====
section
/-! DEFINITION. Control transfer (spec 41_control_flow.md): 00EE, 1nnn, 2nnn, 3xkk, 4xkk, 5xy0, 9xy0, Bnnn. Targets need
no alignment, and a bad target faults only at the next fetch (R120). -/

namespace Sys2Proof.Machine

/-- 00EE RET (R121): pop the address of the CALL and go past it. -/
def execRet (s : State) : Result :=
  match s.pop with
  | none => .fault (.stackUnderflow s.pc)
  | some (a, t) => .next (t.setPc (a + 2))

/-- 1nnn JP nnn (R122). -/
def execJp (nnn : Addr12) (s : State) : Result := .next (s.setPc (nnn.setWidth 16))

/-- 2nnn CALL nnn (R123): push the CALL's own address (10_state.md R30). -/
def execCall (nnn : Addr12) (s : State) : Result :=
  match s.push s.pc with
  | none => .fault (.stackOverflow s.pc)
  | some t => .next (t.setPc (nnn.setWidth 16))

/-- 3xkk SE Vx, kk (R124). -/
def execSeImm (x : Nibble) (kk : Byte) (s : State) : Result := .next (s.skipIf (s.reg x == kk))

/-- 4xkk SNE Vx, kk (R125). -/
def execSneImm (x : Nibble) (kk : Byte) (s : State) : Result := .next (s.skipIf (s.reg x != kk))

/-- 5xy0 SE Vx, Vy (R126). -/
def execSeReg (x y : Nibble) (s : State) : Result := .next (s.skipIf (s.reg x == s.reg y))

/-- 9xy0 SNE Vx, Vy (R127). -/
def execSneReg (x y : Nibble) (s : State) : Result := .next (s.skipIf (s.reg x != s.reg y))

/-- Bnnn JP V0, nnn (R128): the sum is 0 to 0x10FE and is not reduced to 12 bits. -/
def execJpV0 (nnn : Addr12) (s : State) : Result :=
  .next (s.setPc (nnn.setWidth 16 + (s.reg 0).setWidth 16))

end Sys2Proof.Machine
end

