-- ==== Sys2Proof/Machine/Drawing.lean ====
section
/-! DEFINITION. The drawing instructions and the collision detector (spec 46_display.md): 00E0, Dxyn. -/

namespace Sys2Proof.Machine

/-- 00E0 CLS (R231): every pixel off, and the redraw flag set. -/
def execCls (s : State) : Result := .next ((s.setDisplay Display.blank).setRedraw true).advance

/-- One sprite pixel: XOR into the display, and a collision when it was on (R236). -/
def togglePixel (acc : Display × Bool) (p : Fin 64 × Fin 32) : Display × Bool :=
  if Display.get acc.1 p.1 p.2 then (Display.put acc.1 p.1 p.2 false, true)
  else (Display.put acc.1 p.1 p.2 true, acc.2)

/-- The display after a list of sprite pixels, and whether one collided; the flag starts at 0 and is never cleared
(R236). -/
def drawPixels (d : Display) (ps : List (Fin 64 × Fin 32)) : Display × Bool := ps.foldl togglePixel (d, false)

/-- The pixels that Dxyn draws in a state: origin, rows and edge policy (R232 to R234). -/
def State.sprite (s : State) (x y n : Nibble) : List (Fin 64 × Fin 32) :=
  spritePixels s.cfg.spriteEdge (s.originColumn x) (s.originRow y) (s.readBytes s.i.toNat n.toNat)

/-- Dxyn DRW Vx, Vy, n (R235): all reads come before the first write; VF is the collision flag, and the redraw flag is
set whether or not a pixel changed (R237). -/
def execDrw (x y n : Nibble) (s : State) : Result :=
  match rangeFault s.i n.toNat with
  | some f => .fault f
  | none =>
    let drawing := drawPixels s.display (s.sprite x y n)
    .next (((s.setDisplay drawing.1).setReg vf (flagByte drawing.2)).setRedraw true).advance

end Sys2Proof.Machine
end

