-- ==== Sys2Proof/Machine/IndexMemory.lean ====
section
/-! DEFINITION. The index register and memory transfer (spec 43_index_memory.md): Annn, Fx1E, Fx29, Fx33, Fx55, Fx65. The
memory instructions check their whole range before any access, and none of them changes `I` (R170; log entry 17). -/

namespace Sys2Proof.Machine

/-- Annn LD I, nnn (R171). -/
def execLdI (nnn : Addr12) (s : State) : Result := .next (s.setI (nnn.setWidth 16)).advance

/-- Fx1E ADD I, Vx (R172): mod 2^16, no flag, no fault. -/
def execAddI (x : Nibble) (s : State) : Result := .next (s.setI (s.i + (s.reg x).setWidth 16)).advance

/-- Fx29 LD F, Vx (R173). -/
def execLdF (x : Nibble) (s : State) : Result := .next (s.setI (s.glyphAddress (s.reg x))).advance

/-- Fx33 LD B, Vx (R174): the decimal digits into `M[I..I+2]`. -/
def execLdB (x : Nibble) (s : State) : Result :=
  match s.writeFault 3 with
  | some f => .fault f
  | none => .next (s.storeBytes s.i.toNat (decimalDigits (s.reg x))).advance

/-- Fx55 LD [I], Vx (R175): `V[0..x]` into `M[I..I+x]`. -/
def execStoreRegs (x : Nibble) (s : State) : Result :=
  match s.writeFault (x.toNat + 1) with
  | some f => .fault f
  | none => .next (s.storeBytes s.i.toNat (s.readRegs (x.toNat + 1))).advance

/-- Fx65 LD Vx, [I] (R176): `M[I..I+x]` into `V[0..x]`. -/
def execLoadRegs (x : Nibble) (s : State) : Result :=
  match rangeFault s.i (x.toNat + 1) with
  | some f => .fault f
  | none => .next (s.setRegs 0 (s.readBytes s.i.toNat (x.toNat + 1))).advance

end Sys2Proof.Machine
end

