-- ==== Sys2Proof/Machine/Keypad.lean ====
section
/-! DEFINITION. The key instructions and the keypad state machine (spec 45_keypad.md): Ex9E, ExA1, Fx0A, and the cycle
that resolves a pending wait (R216). -/

namespace Sys2Proof.Machine

/-- Ex9E SKP Vx (R211). -/
def execSkp (x : Nibble) (s : State) : Result :=
  match s.keyPressed (s.reg x) with
  | .error f => .fault f
  | .ok p => .next (s.skipIf p)

/-- ExA1 SKNP Vx (R212). -/
def execSknp (x : Nibble) (s : State) : Result :=
  match s.keyPressed (s.reg x) with
  | .error f => .fault f
  | .ok p => .next (s.skipIf (!p))

/-- The value a key leaves in a register: its index. -/
def keyByte (k : Fin 16) : Byte := BitVec.ofNat 8 k.val

/-- Fx0A LD Vx, K (R214): complete with the lowest pressed key, or suspend with PC unchanged. -/
def execLdVxK (x : Nibble) (s : State) : Result :=
  match s.lowestPressed with
  | some k => .next (s.setReg x (keyByte k)).advance
  | none => .next (s.setMode (.awaitingKey x))

/-- The cycle's act in `AwaitingKey(r)` (R216): complete the suspended Fx0A, or change nothing. -/
def resolveWait (r : Nibble) (s : State) : State :=
  match s.lowestPressed with
  | some k => ((s.setReg r (keyByte k)).setMode .free).advance
  | none => s

end Sys2Proof.Machine
end

