-- ==== Sys2Proof/Machine/Timers.lean ====
section
/-! DEFINITION. The timer instructions (spec 44_timers.md): Fx07, Fx15, Fx18. They act before the tick that ends their
cycle (R196). -/

namespace Sys2Proof.Machine

/-- Fx07 LD Vx, DT (R197). -/
def execLdVxDt (x : Nibble) (s : State) : Result := .next (s.setReg x s.dt).advance

/-- Fx15 LD DT, Vx (R198). -/
def execLdDtVx (x : Nibble) (s : State) : Result := .next (s.setDt (s.reg x)).advance

/-- Fx18 LD ST, Vx (R199). -/
def execLdStVx (x : Nibble) (s : State) : Result := .next (s.setSt (s.reg x)).advance

end Sys2Proof.Machine
end

