-- ==== Sys2Proof/Machine/Cycle.lean ====
section
/-! DEFINITION. One cycle of the block (spec 40_cycle.md): the fetch with its checks, the unrecognised words, the
resolution of a pending key wait, the coupled tick, and what a fault leaves. -/

namespace Sys2Proof.Machine

/-- The word at PC, most significant byte first (20_memory.md R61). -/
def State.wordAtPc (s : State) : Word := joinBytes (s.byteAt s.pc.toNat) (s.byteAt (s.pc.toNat + 1))

/-- The odd-PC check of R102. -/
def State.oddPcFault (s : State) : Option Fault :=
  match s.cfg.oddPc with
  | .fetch => none
  | .fault => if s.pc.toNat % 2 = 1 then some (.misalignedFetch s.pc) else none

/-- Fetch: the address checks of R101 in order, then the odd-PC check of R102, then the word (R263). -/
def State.fetch (s : State) : Except Fault Word :=
  match addressFault s.pc.toNat with
  | some f => .error f
  | none =>
    match addressFault (s.pc.toNat + 1) with
    | some f => .error f
    | none =>
      match s.oddPcFault with
      | some f => .error f
      | none => .ok s.wordAtPc

/-- An unrecognised word: it writes nothing and `npc = PC + 2` (R106; 30_encoding.md R86). -/
def execUnrecognised (_ : Word) (s : State) : Result := .next s.advance

/-- Execute a decoded word. -/
def execDecoded (d : Decoded) (s : State) : Result :=
  match d with
  | .instr i => exec i s
  | .unrecognised op => execUnrecognised op s

/-- What the cycle makes of an execution that began in `s`: the end of the cycle, or the fault recorded in `RUN` and
nothing else (R100, R108). -/
def State.settle (s : State) (r : Result) : Result :=
  match r with
  | .next t => .next t.endCycle
  | .fault f => .next (s.halt f)
  | .refused e => .refused e

/-- The cycle in `MODE = Free`: fetch, decode, execute (R100). -/
def State.fetchAndRun (s : State) : Result :=
  match s.fetch with
  | .error f => .next (s.halt f)
  | .ok op => s.settle (execDecoded (decode op) s)

/-- One `cycle` input (R100): no effect when halted; the pending wait, or fetch, decode and execute. -/
def State.cycle (s : State) : Result :=
  match s.run with
  | .halted _ => .next s
  | .running =>
    match s.mode with
    | .awaitingKey r => .next (resolveWait r s).endCycle
    | .free => s.fetchAndRun

/-- The state with an instruction word stored at PC and the block about to fetch it: running, and no wait pending. Where
PC names no two bytes of memory, no word can be stored. -/
def State.withWordAtPc (s : State) (op : Word) : State :=
  let ready := (s.setRun .running).setMode .free
  if s.pc.toNat + 1 < memSize then ready.storeBytes s.pc.toNat (wordBytes op) else ready

end Sys2Proof.Machine
end

