-- ==== Sys2Proof/Machine/Step.lean ====
section
/-! DEFINITION. The step of the machine: one `cycle` input (spec 10_state.md R52, 40_cycle.md R100). -/

namespace Sys2Proof.Machine

/-- One cycle. It always answers a next state: a fault halts the block, which is a state (log entry 6). -/
def step (s : State) : Host.Outcome State Fault Refusal := s.cycle

/-- The state with the instruction of the opcode table's word `w` stored where `step` fetches next. -/
def State.withFetchWord (s : State) (nbits w : Nat) : State := s.withWordAtPc (tableWord nbits w)

end Sys2Proof.Machine
end

