-- ==== Sys2Proof/Machine/Interface.lean ====
section
/-! DEFINITION. The block's boundary (spec 10_state.md R50 to R58): the inputs, each taken between cycles, and the
outputs, each a function of the state. -/

namespace Sys2Proof.Machine

/-- The inputs of R51 to R55. -/
inductive Input where
  /-- R51; the values are read only under `P_INIT = unspecified` (R280) -/
  | reset (u : InitValues)
  /-- R52 -/
  | cycle
  /-- R53; it exists only under `P_TICK_MODE = independent` -/
  | tick
  /-- R54 -/
  | keyEvent (k : Fin 16) (pressed : Bool)
  /-- R55 -/
  | consumeRedraw
  /-- R55, R283, R284; without an origin the bytes go to the default one -/
  | load (bytes : List Byte) (origin : Option Nat)
  /-- R55, R257 -/
  | quit
  deriving DecidableEq, Repr

/-- The kinds and numeric codes of R251. -/
def Fault.code : Fault → Nat
  | .addressOutOfRange _ => 1
  | .stackOverflow _ => 2
  | .stackUnderflow _ => 3
  | .romTooLarge _ => 4
  | .keyIndexOutOfRange _ => 5
  | .misalignedFetch _ => 6
  | .fontWrite _ => 7
  | .loadOverlapsFont _ => 8
  | .quit => 9

/-- Cells given for memory at reset, written where they lie in memory and outside the font region (R40). -/
def State.fillMemory (s : State) : List Host.Cell → State
  | [] => s
  | (a, b) :: rest =>
    if a < memSize ∧ inFont a = false then (s.storeByte a b).fillMemory rest else s.fillMemory rest

/-- The state of R40 under `P_INIT = zero`, with the given parameters and oracle position. -/
def resetZero (cfg : Params) (draws : Nat) : State := { State.reset with cfg := cfg, draws := draws }

/-- The state of R40 under `P_INIT = unspecified`: every "decided" value is the one given. -/
def resetUnspecified (cfg : Params) (draws : Nat) (u : InitValues) : State :=
  { resetZero cfg draws with
    mem := ((resetZero cfg draws).fillMemory u.mem).mem, v := u.v, i := u.i, stack := u.stack, sp := u.sp,
    keys := u.keys, mode := u.mode, display := u.display, redraw := u.redraw, run := u.run }

/-- `reset` (R51, R280): from any state, halted included. The parameters stay, and the oracle is not rewound (log entry
22). -/
def State.resetInput (s : State) (u : InitValues) : State :=
  match s.cfg.init with
  | .zero => resetZero s.cfg s.draws
  | .unspecified => resetUnspecified s.cfg s.draws u

/-- `tick` (R53): one timer tick, only under the independent mode and while running. -/
def State.tickInput (s : State) : State :=
  match s.cfg.tickMode, s.run with
  | .independent, .running => s.tickTimers
  | _, _ => s

/-- Where a `load` puts its bytes: the given origin, or 0x200 (70_reset_and_hazards.md R284, 00_scope.md R8). -/
def loadOrigin (origin : Option Nat) : Nat := origin.getD progBase

/-- The checks of `load`, the font overlap before the size (R283). -/
def loadFault (len origin : Nat) : Option Fault :=
  if origin < fontEnd then some (.loadOverlapsFont origin)
  else if memSize < origin + len then some (.romTooLarge len)
  else none

/-- `load(bytes, origin)` (R283, R284): only between reset and the first cycle, and not while halted. -/
def State.loadInput (s : State) (bytes : List Byte) (origin : Nat) : State :=
  match s.run, s.started with
  | .running, false =>
    match loadFault bytes.length origin with
    | some f => s.halt f
    | none => s.storeBytes origin bytes
  | _, _ => s

/-- One input (R50). -/
def State.accept (s : State) (e : Input) : Result :=
  match e with
  | .reset u => .next (s.resetInput u)
  | .cycle => step s
  | .tick => .next s.tickInput
  | .keyEvent k pressed => .next (s.setKey k pressed)
  | .consumeRedraw => .next (s.setRedraw false)
  | .load bytes origin => .next (s.loadInput bytes (loadOrigin origin))
  | .quit => .next (s.halt .quit)

/-- Inputs in order: host events and cycles are totally ordered (R58). -/
def State.acceptAll (s : State) : List Input → Result
  | [] => .next s
  | e :: rest =>
    match s.accept e with
    | .next t => t.acceptAll rest
    | .fault f => .fault f
    | .refused r => .refused r

/-- The output `display` (R56). -/
def State.displayOut (s : State) : Display := s.display

/-- The output `redraw` (R56). -/
def State.redrawOut (s : State) : Bool := s.redraw

/-- The output `tone_active` (R56, 44_timers.md R194). -/
def State.toneActive (s : State) : Bool := s.st != 0

/-- The output `awaiting_key` (R56). -/
def State.awaitingKeyOut (s : State) : Bool :=
  match s.mode with
  | .free => false
  | .awaitingKey _ => true

/-- The output `status` (R56). -/
def State.statusOut (s : State) : RunStatus := s.run

end Sys2Proof.Machine
end

