-- ==== Sys2Proof/Safety.lean ====
section
/-! DEFINITION. What counts as a safe run, and the terms claims use: completion, frames, which registers an instruction
may write, which pixels a sprite draws, and the invariant that every step keeps. -/

namespace Sys2Proof.Machine

/-- No fatal error has stopped the block: it runs, or the host quit it (spec 60_exceptions.md R251, R257). -/
def State.safe (s : State) : Prop := s.run = .running ∨ s.run = .halted .quit

/-- The next cycle fetches: running, and no key wait pending (40_cycle.md R100). -/
def State.ready (s : State) : Prop := s.run = .running ∧ s.mode = .free

/-- An instruction completes in a state, and what it leaves has a property. -/
def Completes (i : Instr) (s : State) (post : State → Prop) : Prop := ∃ t, exec i s = .next t ∧ post t

/-- Every general register but the listed ones holds what it held. -/
def SameRegsBut (dests : List Nibble) (s t : State) : Prop := ∀ j, j ∉ dests → t.reg j = s.reg j

/-- Every address reads as before. -/
def SameMemory (s t : State) : Prop := ∀ a, t.byteAt a = s.byteAt a

/-- Every address outside the `n` bytes at `a` reads as before. -/
def SameMemoryOutside (a n : Nat) (s t : State) : Prop := ∀ b, ¬(a ≤ b ∧ b < a + n) → t.byteAt b = s.byteAt b

/-- The frame of a register instruction: nothing but the listed registers and `PC` changes. -/
def OnlyRegs (dests : List Nibble) (s t : State) : Prop :=
  t = { s with v := t.v, pc := t.pc } ∧ SameRegsBut dests s t ∧ SameMemory s t

/-- The frame of a control transfer or a skip: nothing but `PC` changes. -/
def OnlyPc (s t : State) : Prop := t = { s with pc := t.pc } ∧ SameRegsBut [] s t ∧ SameMemory s t

/-- The registers an instruction may write (10_state.md R22). -/
def MayWriteReg : Instr → Nibble → Prop
  | .ldImm x _, j => j = x
  | .addImm x _, j => j = x
  | .ldReg x _, j => j = x
  | .orReg x _, j => j = x
  | .andReg x _, j => j = x
  | .xorReg x _, j => j = x
  | .addReg x _, j => j = x ∨ j = vf
  | .subReg x _, j => j = x ∨ j = vf
  | .shr x _, j => j = x ∨ j = vf
  | .subnReg x _, j => j = x ∨ j = vf
  | .shl x _, j => j = x ∨ j = vf
  | .rnd x _, j => j = x
  | .drw _ _ _, j => j = vf
  | .ldVxDt x, j => j = x
  | .ldVxK x, j => j = x
  | .loadRegs x, j => j.toNat ≤ x.toNat
  | .cls, _ => False
  | .ret, _ => False
  | .jp _, _ => False
  | .call _, _ => False
  | .seImm _ _, _ => False
  | .sneImm _ _, _ => False
  | .seReg _ _, _ => False
  | .sneReg _ _, _ => False
  | .ldI _, _ => False
  | .jpV0 _, _ => False
  | .skp _, _ => False
  | .sknp _, _ => False
  | .ldDtVx _, _ => False
  | .ldStVx _, _ => False
  | .addI _, _ => False
  | .ldF _, _ => False
  | .ldB _, _ => False
  | .storeRegs _, _ => False

/-- The number of bytes from `M[I]` on that an instruction stores (20_memory.md R64). -/
def storedBytes : Instr → Nat
  | .ldB _ => 3
  | .storeRegs x => x.toNat + 1
  | .cls => 0
  | .ret => 0
  | .jp _ => 0
  | .call _ => 0
  | .seImm _ _ => 0
  | .sneImm _ _ => 0
  | .seReg _ _ => 0
  | .ldImm _ _ => 0
  | .addImm _ _ => 0
  | .ldReg _ _ => 0
  | .orReg _ _ => 0
  | .andReg _ _ => 0
  | .xorReg _ _ => 0
  | .addReg _ _ => 0
  | .subReg _ _ => 0
  | .shr _ _ => 0
  | .subnReg _ _ => 0
  | .shl _ _ => 0
  | .sneReg _ _ => 0
  | .ldI _ => 0
  | .jpV0 _ => 0
  | .rnd _ _ => 0
  | .drw _ _ _ => 0
  | .skp _ => 0
  | .sknp _ => 0
  | .ldVxDt _ => 0
  | .ldVxK _ => 0
  | .ldDtVx _ => 0
  | .ldStVx _ => 0
  | .addI _ => 0
  | .ldF _ => 0
  | .loadRegs _ => 0

/-- The instructions whose rule does not give `npc = PC + 2` in every case (40_cycle.md R104). -/
def Redirects (i : Instr) : Prop :=
  i = .ret ∨ (∃ nnn, i = .jp nnn) ∨ (∃ nnn, i = .call nnn) ∨ (∃ nnn, i = .jpV0 nnn) ∨ (∃ x kk, i = .seImm x kk) ∨
  (∃ x kk, i = .sneImm x kk) ∨ (∃ x y, i = .seReg x y) ∨ (∃ x y, i = .sneReg x y) ∨ (∃ x, i = .skp x) ∨
  (∃ x, i = .sknp x) ∨ (∃ x, i = .ldVxK x)

/-- The drawing instructions (10_state.md R35). -/
def Draws (i : Instr) : Prop := i = .cls ∨ ∃ x y n, i = .drw x y n

/-- The pixel at column `c`, row `r` is drawn by Dxyn: a 1 bit of the sprite lands on it (46_display.md R232 to R234). Bit
`7 - b` of the byte for row `row` is column `b` of the sprite. -/
def SpritePixelDrawn (s : State) (x y n : Nibble) (c : Fin 64) (r : Fin 32) : Prop :=
  ∃ row b : Nat, row < n.toNat ∧ b < 8 ∧ (s.byteAt (s.i.toNat + row)).getLsbD (7 - b) = true ∧
    match s.cfg.spriteEdge with
    | .clip => (s.reg x).toNat % 64 + b = c.val ∧ (s.reg y).toNat % 32 + row = r.val
    | .wrap => ((s.reg x).toNat % 64 + b) % 64 = c.val ∧ ((s.reg y).toNat % 32 + row) % 32 = r.val

/-- Key `k` is the lowest-indexed pressed key (45_keypad.md R214). -/
def LowestPressedIs (s : State) (k : Fin 16) : Prop := s.key k = true ∧ ∀ j, j < k → s.key j = false

/-- No key is pressed. -/
def NoKeyPressed (s : State) : Prop := ∀ k, s.key k = false

/-- The next cycle of a running block is that of an Fx0A with `x = r`: one is pending, or one is fetched (45_keypad.md
R214, R216). -/
def RunsKeyWait (s : State) (r : Nibble) : Prop :=
  s.mode = .awaitingKey r ∨ s.mode = .free ∧ ∃ op, s.fetch = .ok op ∧ decode op = .instr (.ldVxK r)

/-- The invariant that every step keeps. -/
structure State.Inv (s : State) : Prop where
  /-- memory is in canonical form -/
  memory : Memory.wf s.cfg.font s.mem
  /-- PC never leaves 0x000 to 0x10FE, the range of Bnnn's targets (41_control_flow.md R128), so it never wraps -/
  pcBound : s.pc.toNat ≤ 0x10FE
  /-- every valid stack entry is an address an instruction was fetched from (10_state.md R30) -/
  stackBound : ∀ k : Fin 16, k.val < s.sp.val → (s.stack[k.val]).toNat ≤ 0xFFE
  /-- a pending wait's Fx0A still stands at PC (20_memory.md R74, 45_keypad.md R219) -/
  waiting : ∀ r, s.mode = .awaitingKey r → s.fetch = .ok (encode (.ldVxK r))

end Sys2Proof.Machine
end

