-- ==== Sys2Proof/Certificates/Slice0/Obligations.lean ====
section
/-! DEFINITION. The statements about the machine, from the numbered rules of spec/. Each holds for every value of the
parameters of spec 00_scope.md R9, since they are fields of the state (`cfg`). -/

open Sys2Proof Sys2Proof.Machine

/-! ### Encoding -/

/-- 30_encoding.md R83, 40_cycle.md R103: the word of an instruction decodes to that instruction, every operand kept. The
low nibbles of the 8xy_ block are the spec's R84 (from general knowledge; log entry 11). -/
def Obligations.DecodeInvertsEncode : Prop := ∀ i : Instr, decode (encode i) = .instr i

/-- 30_encoding.md R83: a recognised word is the word of the instruction it decodes to, so no two words decode to one
instruction and no bit of a word is dropped (the unused `y` of 8xy6 and 8xyE included, R85). -/
def Obligations.EncodeInvertsDecode : Prop := ∀ (op : Word) (i : Instr), decode op = .instr i → encode i = op

/-- 30_encoding.md R83, R86: the decoder is the opcode map. The 34 rows do not overlap; a word that decodes to an
instruction matches that instruction's row; a word is unrecognised exactly when it matches no row. The rows of the 8xy_
block follow R84 (log entry 11). -/
def Obligations.DecoderIsTheOpcodeMap : Prop :=
  opcodeRows.length = 34 ∧
  (∀ op : Word, ∀ r ∈ opcodeRows, ∀ q ∈ opcodeRows, r.covers op = true → q.covers op = true → r = q) ∧
  (∀ (op : Word) (i : Instr), decode op = .instr i → rowOf i ∈ opcodeRows ∧ (rowOf i).covers op = true) ∧
  (∀ op : Word, decode op = .unrecognised op ↔ ∀ r ∈ opcodeRows, r.covers op = false)

/-- Words that stand in 95_test_vectors.md and what they stand for, one or more of each of the families 0 to F (a sanity
check). That the low nibble 7 of the 8xy_ word selects SUBN is the spec's R84, from general knowledge (log entry 11). -/
def Obligations.SpecWordsDecodeAsWritten : Prop :=
  decode 0x00E0 = .instr .cls ∧ decode 0x00EE = .instr .ret ∧ decode 0x1ABC = .instr (.jp 0xABC) ∧
  decode 0x2300 = .instr (.call 0x300) ∧ decode 0x3F01 = .instr (.seImm 0xF 0x01) ∧
  decode 0x4300 = .instr (.sneImm 3 0x00) ∧ decode 0x5120 = .instr (.seReg 1 2) ∧
  decode 0x6A42 = .instr (.ldImm 0xA 0x42) ∧ decode 0x7101 = .instr (.addImm 1 0x01) ∧
  decode 0x8127 = .instr (.subnReg 1 2) ∧ decode 0x9440 = .instr (.sneReg 4 4) ∧
  decode 0xA208 = .instr (.ldI 0x208) ∧ decode 0xB300 = .instr (.jpV0 0x300) ∧
  decode 0xC3F0 = .instr (.rnd 3 0xF0) ∧ decode 0xD013 = .instr (.drw 0 1 3) ∧
  decode 0xE09E = .instr (.skp 0) ∧ decode 0xF50A = .instr (.ldVxK 5) ∧
  decode 0xF155 = .instr (.storeRegs 1) ∧ decode 0x0123 = .unrecognised 0x0123

/-- 30_encoding.md R86, R87: the unrecognised words of every family. That 5xyN and 9xyN with N not 0 do not compare is the
spec's decision D14 (log entry 25). -/
def Obligations.UnusedEncodingsAreUnrecognised : Prop :=
  (∀ nnn : Addr12, nnn ≠ 0x0E0 → nnn ≠ 0x0EE → decode (0x0#4 ++ nnn) = .unrecognised (0x0#4 ++ nnn)) ∧
  (∀ x y n : Nibble, n ≠ 0 →
    decode (0x5#4 ++ x ++ y ++ n) = .unrecognised (0x5#4 ++ x ++ y ++ n) ∧
    decode (0x9#4 ++ x ++ y ++ n) = .unrecognised (0x9#4 ++ x ++ y ++ n)) ∧
  (∀ x y n : Nibble, n ∈ [0x8#4, 0x9#4, 0xA#4, 0xB#4, 0xC#4, 0xD#4, 0xF#4] →
    decode (0x8#4 ++ x ++ y ++ n) = .unrecognised (0x8#4 ++ x ++ y ++ n)) ∧
  (∀ (x : Nibble) (kk : Byte), kk ≠ 0x9E → kk ≠ 0xA1 → decode (0xE#4 ++ x ++ kk) = .unrecognised (0xE#4 ++ x ++ kk)) ∧
  (∀ (x : Nibble) (kk : Byte), kk ∉ [0x07#8, 0x0A#8, 0x15#8, 0x18#8, 0x1E#8, 0x29#8, 0x33#8, 0x55#8, 0x65#8] →
    decode (0xF#4 ++ x ++ kk) = .unrecognised (0xF#4 ++ x ++ kk))

/-! ### The cycle -/

/-- 40_cycle.md R100: where the two bytes at PC, most significant first, decode to an instruction, the step of a running
block with no wait pending is that instruction's execution, followed by the end of the cycle; and a fault it raises is
recorded in `RUN` with nothing else changed. No instruction is refused. -/
def Obligations.StepRunsTheDecodedInstruction : Prop :=
  ∀ (s : State) (i : Instr), s.run = .running → s.mode = .free → s.pc.toNat ≤ 0xFFE →
    (s.cfg.oddPc = .fault → s.pc.toNat % 2 = 0) →
    decode (joinBytes (s.byteAt s.pc.toNat) (s.byteAt (s.pc.toNat + 1))) = .instr i →
    (∀ t, exec i s = .next t → step s = .next t.endCycle) ∧
    (∀ f, exec i s = .fault f → step s = .next { s with run := .halted f }) ∧
    (∀ e, exec i s ≠ .refused e)

/-- 40_cycle.md R106: an unrecognised word writes nothing, `npc = PC + 2`, and it raises no fault; the cycle then ends as
every cycle does. -/
def Obligations.UnrecognisedWordOnlyAdvancesPc : Prop :=
  ∀ (s : State) (op : Word), s.ready → s.fetch = .ok op → decode op = .unrecognised op →
    step s = .next ({ s with pc := s.pc + 2 } : State).endCycle

/-- 40_cycle.md R110 (the spec's decision D19; log entry 2): the end of a cycle ticks both timers once under the coupled
mode and not at all under the independent mode, and changes nothing else the spec names (`started` is the model's own
field, log entry 7). -/
def Obligations.CycleEndTicksOnlyWhenCoupled : Prop :=
  ∀ s : State,
    (s.cfg.tickMode = .coupled →
      s.endCycle = { s with dt := s.endCycle.dt, st := s.endCycle.st, started := true } ∧
      s.endCycle.dt.toNat = s.dt.toNat - 1 ∧ s.endCycle.st.toNat = s.st.toNat - 1) ∧
    (s.cfg.tickMode = .independent → s.endCycle = { s with started := true })

/-- 40_cycle.md R101, R102, 60_exceptions.md R263: the fetch faults of a running block with no wait pending, in order (the
spec's decisions D4 and D7; log entries 14 and 27). -/
def Obligations.FetchFaultsHaltTheBlock : Prop :=
  ∀ s : State, s.ready →
    (0xFFF < s.pc.toNat → step s = .next { s with run := .halted (.addressOutOfRange s.pc.toNat) }) ∧
    (s.pc.toNat = 0xFFF → step s = .next { s with run := .halted (.addressOutOfRange 0x1000) }) ∧
    (s.pc.toNat ≤ 0xFFE → s.cfg.oddPc = .fault → s.pc.toNat % 2 = 1 →
      step s = .next { s with run := .halted (.misalignedFetch s.pc) })

/-- 40_cycle.md R108, 60_exceptions.md R252 (the spec's decision D5; log entries 6 and 15): a cycle that halts the block
changes `RUN` and nothing else, and then a cycle and a tick have no effect. -/
def Obligations.HaltingCycleChangesOnlyRun : Prop :=
  ∀ (s t : State) (f : Fault), s.run = .running → step s = .next t → t.run = .halted f →
    t = { s with run := .halted f } ∧ step t = .next t ∧ t.tickInput = t

/-- 60_exceptions.md R262 (the spec's decision D5; log entry 15; that `quit` while halted records Quit is log entry 21):
halting is absorbing. -/
def Obligations.HaltedBlockStaysHalted : Prop :=
  ∀ (s : State) (f : Fault), s.run = .halted f →
    s.accept .cycle = .next s ∧ s.accept .tick = .next s ∧
    (∀ bytes origin, s.accept (.load bytes origin) = .next s) ∧
    (∀ k p, s.accept (.keyEvent k p) = .next (s.setKey k p) ∧ (s.setKey k p).key k = p) ∧
    s.accept .consumeRedraw = .next { s with redraw := false } ∧
    (∀ e t, (∀ u, e ≠ .reset u) → s.accept e = .next t → ∃ g, t.run = .halted g)

/-- 40_cycle.md R100, R108: a cycle always answers a next state; no state is stuck and no instruction is refused (that a
fault is a next state is log entry 6). -/
def Obligations.EveryCycleAnswersANextState : Prop := ∀ s : State, ∃ t, step s = .next t

/-- 20_memory.md R74 ("a write is seen by every fetch in every later cycle"): a word stored at PC is what the block
fetches next. The state that fetches is the model's own (log entry 24). -/
def Obligations.StoredWordIsFetchedNext : Prop :=
  ∀ (s : State) (op : Word), s.pc.toNat ≤ 0xFFE → (s.cfg.oddPc = .fault → s.pc.toNat % 2 = 0) →
    (s.storeBytes s.pc.toNat (wordBytes op)).fetch = .ok op ∧
    (s.withFetchWord 16 op.toNat).fetch = .ok op ∧ (s.withFetchWord 16 op.toNat).ready

/-- 40_cycle.md R109: the only cycle that does not complete its instruction is one in which Fx0A, just executed or pending,
finds no key pressed; PC does not advance, and the next cycle tries again. And every such cycle suspends. -/
def Obligations.OnlyTheKeyWaitSuspends : Prop :=
  (∀ (s t : State) (r : Nibble), s.run = .running → step s = .next t → t.mode = .awaitingKey r →
    NoKeyPressed s ∧ RunsKeyWait s r ∧ t.pc = s.pc ∧ step t = .next (resolveWait r t).endCycle) ∧
  (∀ (s : State) (r : Nibble), s.run = .running → RunsKeyWait s r → NoKeyPressed s →
    ∃ t, step s = .next t ∧ t.run = .running ∧ t.mode = .awaitingKey r ∧ t.pc = s.pc)

/-! ### Whole-machine rules -/

/-- The invariant holds after reset (the model's own invariant; the reset values it reads are PC, source, and the spec's
decision D6 for the rest, log entry 4). -/
def Obligations.InvariantHoldsAtReset : Prop := State.reset.Inv

/-- Every step keeps the invariant: memory stays canonical (20_memory.md R60), PC stays in 0x000 to 0x10FE
(41_control_flow.md R128), valid stack entries stay fetchable addresses (10_state.md R30), and a pending wait's Fx0A stays
in place at PC (45_keypad.md R219). -/
def Obligations.StepKeepsInvariant : Prop := ∀ s t : State, s.Inv → step s = .next t → t.Inv

/-- Every input, reset and load included, keeps memory in canonical form (20_memory.md R60; log entry 5). -/
def Obligations.EveryInputKeepsMemoryCanonical : Prop :=
  ∀ (s t : State) (e : Input), Memory.wf s.cfg.font s.mem → s.accept e = .next t → Memory.wf t.cfg.font t.mem

/-- 20_memory.md R68 (`P_FONT_WRITE`, the spec's decision D25; log entry 2): under the fault policy no step changes a byte
of the font region. -/
def Obligations.ProtectedFontIsNeverMutated : Prop :=
  ∀ s t : State, s.cfg.fontWrite = .fault → step s = .next t →
    ∀ a, 0x050 ≤ a → a ≤ 0x09F → t.byteAt a = s.byteAt a

/-- 10_state.md R22: which general registers an instruction may write. -/
def Obligations.RegistersWrittenOnlyAsListed : Prop :=
  ∀ (i : Instr) (s t : State), exec i s = .next t → ∀ j, ¬MayWriteReg i j → t.reg j = s.reg j

/-- 20_memory.md R64: which bytes an instruction may write: those of Fx33 and Fx55 from `M[I]` on, and no others. -/
def Obligations.MemoryWrittenOnlyAsListed : Prop :=
  ∀ (i : Instr) (s t : State), exec i s = .next t → SameMemoryOutside s.i.toNat (storedBytes i) s t

/-- 10_state.md R27 (the "written by" column) and R20: each dedicated location is written only by its instructions, and no
instruction writes `K`, `RUN` or the parameters (the model's own `started` and `draws`: log entries 7 and 8). -/
def Obligations.DedicatedLocationsWrittenOnlyAsListed : Prop :=
  ∀ (i : Instr) (s t : State), exec i s = .next t →
    (t.i = s.i ∨ (∃ nnn, i = .ldI nnn) ∨ (∃ x, i = .addI x) ∨ ∃ x, i = .ldF x) ∧
    (t.sp = s.sp ∨ (∃ nnn, i = .call nnn) ∨ i = .ret) ∧
    (t.stack = s.stack ∨ ∃ nnn, i = .call nnn) ∧
    (t.dt = s.dt ∨ ∃ x, i = .ldDtVx x) ∧
    (t.st = s.st ∨ ∃ x, i = .ldStVx x) ∧
    (t.mode = s.mode ∨ ∃ x, i = .ldVxK x) ∧
    (t.draws = s.draws ∨ ∃ x kk, i = .rnd x kk) ∧
    t.keys = s.keys ∧ t.run = s.run ∧ t.started = s.started ∧ t.cfg = s.cfg

/-- 46_display.md R230: only 00E0 and Dxyn write `D`; only they set `RD`, and each sets it; only `consume_redraw` clears
it (and reset gives both their reset values, 10_state.md R40); the host reads `D` and never writes it. -/
def Obligations.OnlyDrawingTouchesTheDisplay : Prop :=
  (∀ (i : Instr) (s t : State), exec i s = .next t →
    (¬Draws i → t.display = s.display ∧ t.redraw = s.redraw) ∧ (Draws i → t.redraw = true)) ∧
  (∀ (e : Input) (s t : State), s.accept e = .next t → e ≠ .cycle → (∀ u, e ≠ .reset u) →
    t.display = s.display ∧ (t.redraw = s.redraw ∨ e = .consumeRedraw ∧ t.redraw = false)) ∧
  (∀ s : State, s.displayOut = s.display ∧ s.accept .consumeRedraw = .next { s with redraw := false })

/-- 40_cycle.md R104 (PC arithmetic mod 2^16 is the spec's decision D8): every instruction that does not redirect control
leaves `PC + 2`. -/
def Obligations.OrdinaryInstructionsAdvancePcByTwo : Prop :=
  ∀ (i : Instr) (s t : State), ¬Redirects i → exec i s = .next t → t.pc = s.pc + 2

/-- 10_state.md R53 to R57, 44_timers.md R191: what each host event does or may write, and nothing else. A tick performs one
timer tick under the independent mode while running, and nothing otherwise; what a `load` writes, and when, is a statement
of its own (when `load` and `tick` are accepted follows the spec's decisions D19 and D24; log entries 23 and 28). That
`quit` on a block already halted overwrites the recorded kind is the model's choice, log entry 21. -/
def Obligations.HostEventsWriteOnlyTheirLocations : Prop :=
  ∀ s : State,
    (∀ k p, ∃ t, s.accept (.keyEvent k p) = .next t ∧ t = { s with keys := t.keys } ∧ t.key k = p ∧
      ∀ j, j ≠ k → t.key j = s.key j) ∧
    (∃ t, s.accept .consumeRedraw = .next t ∧ t = { s with redraw := false }) ∧
    (∃ t, s.accept .quit = .next t ∧ t = { s with run := .halted .quit }) ∧
    (∃ t, s.accept .tick = .next t ∧ t = { s with dt := t.dt, st := t.st } ∧
      (s.cfg.tickMode = .independent → s.run = .running →
        t = s.tickTimers ∧ t.dt.toNat = s.dt.toNat - 1 ∧ t.st.toNat = s.st.toNat - 1) ∧
      (s.cfg.tickMode = .coupled → t = s) ∧ (∀ f, s.run = .halted f → t = s)) ∧
    (∀ bytes origin, ∃ t, s.accept (.load bytes origin) = .next t ∧ t = { s with mem := t.mem, run := t.run })

/-! ### Control transfer -/

/-- 41_control_flow.md R122: 1nnn. -/
def Obligations.JumpSetsPcToItsAddress : Prop :=
  ∀ (s : State) (nnn : Addr12), decode (0x1#4 ++ nnn) = .instr (.jp nnn) ∧
    Completes (.jp nnn) s fun t => t.pc.toNat = nnn.toNat ∧ OnlyPc s t

/-- 41_control_flow.md R123: 2nnn pushes its own address, and faults on a full stack (the spec's decisions D2 and D3; log
entry 13). -/
def Obligations.CallPushesItsOwnAddress : Prop :=
  ∀ (s : State) (nnn : Addr12),
    (s.sp.val = 16 → exec (.call nnn) s = .fault (.stackOverflow s.pc)) ∧
    (s.sp.val < 16 → Completes (.call nnn) s fun t =>
      t.pc.toNat = nnn.toNat ∧ t.sp.val = s.sp.val + 1 ∧
      (∀ k : Fin 16, k.val = s.sp.val → t.stack[k.val] = s.pc) ∧
      (∀ k : Fin 16, k.val ≠ s.sp.val → t.stack[k.val] = s.stack[k.val]) ∧
      t = { s with stack := t.stack, sp := t.sp, pc := t.pc } ∧ SameRegsBut [] s t ∧ SameMemory s t)

/-- 41_control_flow.md R121: 00EE goes past the CALL on top of the stack, and faults on an empty stack (the spec's
decisions D2 and D3; log entry 13). -/
def Obligations.ReturnGoesPastTheCall : Prop :=
  ∀ s : State,
    (s.sp.val = 0 → exec .ret s = .fault (.stackUnderflow s.pc)) ∧
    (∀ k : Fin 16, s.sp.val = k.val + 1 → Completes .ret s fun t =>
      t.pc = s.stack[k.val] + 2 ∧ t.sp.val = k.val ∧
      t = { s with sp := t.sp, pc := t.pc } ∧ SameRegsBut [] s t ∧ SameMemory s t)

/-- 41_control_flow.md R129: a call, then any code that leaves `SP` and the entries up to it as it found them, then a
return, gives the instruction after the call and the original `SP`. -/
def Obligations.ReturnUndoesCall : Prop :=
  ∀ (s t u : State) (nnn : Addr12), exec (.call nnn) s = .next t → u.sp = t.sp →
    (∀ k : Fin 16, k.val < t.sp.val → u.stack[k.val] = t.stack[k.val]) →
    Completes .ret u fun w => w.pc = s.pc + 2 ∧ w.sp = s.sp

/-- 41_control_flow.md R124, R125: 3xkk and 4xkk. -/
def Obligations.ImmediateSkipsCompareVx : Prop :=
  ∀ (s : State) (x : Nibble) (kk : Byte),
    decode (0x3#4 ++ x ++ kk) = .instr (.seImm x kk) ∧ decode (0x4#4 ++ x ++ kk) = .instr (.sneImm x kk) ∧
    Completes (.seImm x kk) s (fun t => t.pc = (if s.reg x = kk then s.pc + 4 else s.pc + 2) ∧ OnlyPc s t) ∧
    Completes (.sneImm x kk) s (fun t => t.pc = (if s.reg x = kk then s.pc + 2 else s.pc + 4) ∧ OnlyPc s t)

/-- 41_control_flow.md R126, R127: 5xy0 and 9xy0 (that only `n = 0` decodes so is the spec's decision D14; log entry
25). -/
def Obligations.RegisterSkipsCompareVxVy : Prop :=
  ∀ (s : State) (x y : Nibble),
    Completes (.seReg x y) s (fun t => t.pc = (if s.reg x = s.reg y then s.pc + 4 else s.pc + 2) ∧ OnlyPc s t) ∧
    Completes (.sneReg x y) s (fun t => t.pc = (if s.reg x = s.reg y then s.pc + 2 else s.pc + 4) ∧ OnlyPc s t)

/-- 41_control_flow.md R128: Bnnn; the sum is not reduced to 12 bits (the spec's decisions D4 and D8; log entry 14). -/
def Obligations.OffsetJumpAddsV0 : Prop :=
  ∀ (s : State) (nnn : Addr12),
    Completes (.jpV0 nnn) s fun t => t.pc.toNat = nnn.toNat + (s.reg 0).toNat ∧ OnlyPc s t

/-! ### Register arithmetic and logic -/

/-- 42_alu.md R141, R142: 6xkk and 7xkk; no flag is written unless VF is the destination. -/
def Obligations.ImmediateLoadAndAdd : Prop :=
  ∀ (s : State) (x : Nibble) (kk : Byte),
    decode (0x6#4 ++ x ++ kk) = .instr (.ldImm x kk) ∧ decode (0x7#4 ++ x ++ kk) = .instr (.addImm x kk) ∧
    Completes (.ldImm x kk) s (fun t => t.reg x = kk ∧ t.pc = s.pc + 2 ∧ OnlyRegs [x] s t) ∧
    Completes (.addImm x kk) s (fun t =>
      (t.reg x).toNat = ((s.reg x).toNat + kk.toNat) % 256 ∧ t.pc = s.pc + 2 ∧ OnlyRegs [x] s t)

/-- 42_alu.md R144 to R147: the assignment and the bitwise operations; VF is written only as a destination. The words
that select them are stated with the opcode map. -/
def Obligations.MoveAndBitwiseOperations : Prop :=
  ∀ (s : State) (x y : Nibble),
    Completes (.ldReg x y) s (fun t => t.reg x = s.reg y ∧ t.pc = s.pc + 2 ∧ OnlyRegs [x] s t) ∧
    Completes (.orReg x y) s (fun t =>
      (∀ b, (t.reg x).getLsbD b = ((s.reg x).getLsbD b || (s.reg y).getLsbD b)) ∧ t.pc = s.pc + 2 ∧ OnlyRegs [x] s t) ∧
    Completes (.andReg x y) s (fun t =>
      (∀ b, (t.reg x).getLsbD b = ((s.reg x).getLsbD b && (s.reg y).getLsbD b)) ∧ t.pc = s.pc + 2 ∧ OnlyRegs [x] s t) ∧
    Completes (.xorReg x y) s (fun t =>
      (∀ b, (t.reg x).getLsbD b = ((s.reg x).getLsbD b ^^ (s.reg y).getLsbD b)) ∧ t.pc = s.pc + 2 ∧ OnlyRegs [x] s t)

/-- 42_alu.md R148: 8xy4; the flag is written last, so with `x = F` VF ends as the carry. -/
def Obligations.AddSetsCarry : Prop :=
  ∀ (s : State) (x y : Nibble),
    Completes (.addReg x y) s fun t =>
      (x ≠ vf → (t.reg x).toNat = ((s.reg x).toNat + (s.reg y).toNat) % 256) ∧
      t.reg vf = (if 255 < (s.reg x).toNat + (s.reg y).toNat then 1 else 0) ∧
      t.pc = s.pc + 2 ∧ OnlyRegs [x, vf] s t

/-- 42_alu.md R149: 8xy5; VF is 1 exactly when the left operand is strictly greater. -/
def Obligations.SubtractFlagsStrictlyGreater : Prop :=
  ∀ (s : State) (x y : Nibble),
    Completes (.subReg x y) s fun t =>
      (x ≠ vf → ((t.reg x).toNat : Int) = ((s.reg x).toNat - (s.reg y).toNat : Int) % 256) ∧
      t.reg vf = (if (s.reg y).toNat < (s.reg x).toNat then 1 else 0) ∧
      t.pc = s.pc + 2 ∧ OnlyRegs [x, vf] s t

/-- 42_alu.md R151: 8xy7, the other direction (which nibble selects it is the spec's R84, from general knowledge; log
entry 11). -/
def Obligations.ReverseSubtractFlagsStrictlyGreater : Prop :=
  ∀ (s : State) (x y : Nibble),
    Completes (.subnReg x y) s fun t =>
      (x ≠ vf → ((t.reg x).toNat : Int) = ((s.reg y).toNat - (s.reg x).toNat : Int) % 256) ∧
      t.reg vf = (if (s.reg x).toNat < (s.reg y).toNat then 1 else 0) ∧
      t.pc = s.pc + 2 ∧ OnlyRegs [x, vf] s t

/-- 42_alu.md R150, R152: 8xy6 and 8xyE; the source is V[x], or V[y] under `P_SHIFT_USES_VY` (the spec's decision D13; log
entry 2). -/
def Obligations.ShiftsFlagTheBitShiftedOut : Prop :=
  ∀ (s : State) (x y : Nibble) (src : Byte), src = (if s.cfg.shiftUsesVy = true then s.reg y else s.reg x) →
    Completes (.shr x y) s (fun t =>
      (x ≠ vf → (t.reg x).toNat = src.toNat / 2) ∧ (t.reg vf).toNat = src.toNat % 2 ∧
      t.pc = s.pc + 2 ∧ OnlyRegs [x, vf] s t) ∧
    Completes (.shl x y) s (fun t =>
      (x ≠ vf → (t.reg x).toNat = src.toNat * 2 % 256) ∧ (t.reg vf).toNat = src.toNat / 128 ∧
      t.pc = s.pc + 2 ∧ OnlyRegs [x, vf] s t)

/-- 42_alu.md R156: Cxkk; the random byte is a free value (R157; log entry 8), so only what the mask fixes is known of
V[x]. Every execution draws once from the oracle. -/
def Obligations.RandomByteIsMasked : Prop :=
  ∀ (s : State) (x : Nibble) (kk : Byte), decode (0xC#4 ++ x ++ kk) = .instr (.rnd x kk) ∧
    Completes (.rnd x kk) s fun t =>
      t.reg x = Config.randByte s.draws &&& kk ∧ (∀ b, kk.getLsbD b = false → (t.reg x).getLsbD b = false) ∧
      t.pc = s.pc + 2 ∧ t = { s with v := t.v, pc := t.pc, draws := s.draws + 1 } ∧
      SameRegsBut [x] s t ∧ SameMemory s t

/-! ### Index register and memory transfer -/

/-- 43_index_memory.md R171: Annn. -/
def Obligations.LoadIndexSetsI : Prop :=
  ∀ (s : State) (nnn : Addr12), decode (0xA#4 ++ nnn) = .instr (.ldI nnn) ∧
    Completes (.ldI nnn) s fun t =>
      t.i.toNat = nnn.toNat ∧ t.pc = s.pc + 2 ∧ t = { s with i := t.i, pc := t.pc } ∧
      SameRegsBut [] s t ∧ SameMemory s t

/-- 43_index_memory.md R172, R173: Fx1E and Fx29, both mod 2^16, with no flag and no fault (the spec's decisions D4, D10
and D21; log entries 14, 16 and 17). -/
def Obligations.IndexAddAndGlyphAddress : Prop :=
  ∀ (s : State) (x : Nibble),
    Completes (.addI x) s (fun t =>
      t.i.toNat = (s.i.toNat + (s.reg x).toNat) % 65536 ∧ t.pc = s.pc + 2 ∧ t = { s with i := t.i, pc := t.pc } ∧
      SameRegsBut [] s t ∧ SameMemory s t) ∧
    Completes (.ldF x) s (fun t =>
      t.i.toNat = (s.cfg.fx29Base.toNat + 5 * (s.reg x).toNat) % 65536 ∧ t.pc = s.pc + 2 ∧
      t = { s with i := t.i, pc := t.pc } ∧ SameRegsBut [] s t ∧ SameMemory s t)

/-- 43_index_memory.md R174: Fx33; it stores the decimal digits, leaves `I` as it was, and faults exactly when a byte would
lie above 0xFFF or, under `P_FONT_WRITE = fault`, in the font. -/
def Obligations.DecimalDigitsAreStored : Prop :=
  ∀ (s : State) (x : Nibble), decode (0xF#4 ++ x ++ 0x33#8) = .instr (.ldB x) ∧
    ((∃ f, exec (.ldB x) s = .fault f) ↔
      0xFFF < s.i.toNat + 2 ∨ s.cfg.fontWrite = .fault ∧ s.i.toNat ≤ 0x09F ∧ 0x050 ≤ s.i.toNat + 2) ∧
    (s.i.toNat + 2 ≤ 0xFFF → (s.cfg.fontWrite = .write ∨ 0x09F < s.i.toNat ∨ s.i.toNat + 2 < 0x050) →
      Completes (.ldB x) s fun t =>
        (t.byteAt s.i.toNat).toNat = (s.reg x).toNat / 100 ∧
        (t.byteAt (s.i.toNat + 1)).toNat = (s.reg x).toNat / 10 % 10 ∧
        (t.byteAt (s.i.toNat + 2)).toNat = (s.reg x).toNat % 10 ∧
        SameMemoryOutside s.i.toNat 3 s t ∧
        t.pc = s.pc + 2 ∧ t = { s with mem := t.mem, pc := t.pc } ∧ SameRegsBut [] s t)

/-- 43_index_memory.md R175: Fx55 (that `I` does not change is the spec's decision D22; log entry 17). -/
def Obligations.RegistersAreStoredFromI : Prop :=
  ∀ (s : State) (x : Nibble), s.i.toNat + x.toNat ≤ 0xFFF →
    (s.cfg.fontWrite = .write ∨ 0x09F < s.i.toNat ∨ s.i.toNat + x.toNat < 0x050) →
    Completes (.storeRegs x) s fun t =>
      (∀ j : Nibble, j.toNat ≤ x.toNat → t.byteAt (s.i.toNat + j.toNat) = s.reg j) ∧
      SameMemoryOutside s.i.toNat (x.toNat + 1) s t ∧
      t.pc = s.pc + 2 ∧ t = { s with mem := t.mem, pc := t.pc } ∧ SameRegsBut [] s t

/-- 43_index_memory.md R176: Fx65 (that `I` does not change is the spec's decision D22; log entry 17). -/
def Obligations.RegistersAreLoadedFromI : Prop :=
  ∀ (s : State) (x : Nibble), s.i.toNat + x.toNat ≤ 0xFFF →
    Completes (.loadRegs x) s fun t =>
      (∀ j : Nibble, j.toNat ≤ x.toNat → t.reg j = s.byteAt (s.i.toNat + j.toNat)) ∧
      (∀ j : Nibble, x.toNat < j.toNat → t.reg j = s.reg j) ∧
      t.pc = s.pc + 2 ∧ t = { s with v := t.v, pc := t.pc } ∧ SameMemory s t

/-- 43_index_memory.md R170, 60_exceptions.md R253, R259, R263: where Fx33, Fx55 and Fx65 fault and what they report, the
address range before the font (the spec's decisions D4, D5 and D25; log entries 14 and 15). -/
def Obligations.MemoryTransferFaults : Prop :=
  ∀ (s : State) (x : Nibble),
    (0xFFF < s.i.toNat + 2 → exec (.ldB x) s = .fault (.addressOutOfRange (max s.i.toNat 0x1000))) ∧
    (0xFFF < s.i.toNat + x.toNat →
      exec (.storeRegs x) s = .fault (.addressOutOfRange (max s.i.toNat 0x1000)) ∧
      exec (.loadRegs x) s = .fault (.addressOutOfRange (max s.i.toNat 0x1000))) ∧
    (s.cfg.fontWrite = .fault → s.i.toNat ≤ 0x09F → 0x050 ≤ s.i.toNat + 2 →
      exec (.ldB x) s = .fault (.fontWrite (max s.i.toNat 0x050))) ∧
    (s.cfg.fontWrite = .fault → s.i.toNat ≤ 0x09F → 0x050 ≤ s.i.toNat + x.toNat →
      exec (.storeRegs x) s = .fault (.fontWrite (max s.i.toNat 0x050)))

/-! ### Timers -/

/-- 44_timers.md R192: one tick takes each timer down by exactly 1 while it is above 0 and never below 0, and changes
nothing else; and no instruction but Fx15 and Fx18 sets a timer, so a timer at 0 stays there until one writes it. -/
def Obligations.TimersCountDownToZeroAndStay : Prop :=
  (∀ s : State, s.tickTimers = { s with dt := s.tickTimers.dt, st := s.tickTimers.st } ∧
    (0 < s.dt.toNat → s.tickTimers.dt.toNat + 1 = s.dt.toNat) ∧ (s.dt = 0 → s.tickTimers.dt = 0) ∧
    (0 < s.st.toNat → s.tickTimers.st.toNat + 1 = s.st.toNat) ∧ (s.st = 0 → s.tickTimers.st = 0)) ∧
  (∀ s t : State, s.dt = 0 → step s = .next t →
    (∀ op x, s.ready → s.fetch = .ok op → decode op ≠ .instr (.ldDtVx x)) → t.dt = 0) ∧
  (∀ s t : State, s.st = 0 → step s = .next t →
    (∀ op x, s.ready → s.fetch = .ok op → decode op ≠ .instr (.ldStVx x)) → t.st = 0)

/-- 44_timers.md R197, R198, R199: Fx07, Fx15 and Fx18, before the tick that may end their cycle. -/
def Obligations.TimerInstructionsMoveTimers : Prop :=
  ∀ (s : State) (x : Nibble),
    decode (0xF#4 ++ x ++ 0x07#8) = .instr (.ldVxDt x) ∧ decode (0xF#4 ++ x ++ 0x15#8) = .instr (.ldDtVx x) ∧
    decode (0xF#4 ++ x ++ 0x18#8) = .instr (.ldStVx x) ∧
    Completes (.ldVxDt x) s (fun t => t.reg x = s.dt ∧ t.pc = s.pc + 2 ∧ OnlyRegs [x] s t) ∧
    Completes (.ldDtVx x) s (fun t => t.dt = s.reg x ∧ t.pc = s.pc + 2 ∧
      t = { s with dt := t.dt, pc := t.pc } ∧ SameRegsBut [] s t ∧ SameMemory s t) ∧
    Completes (.ldStVx x) s (fun t => t.st = s.reg x ∧ t.pc = s.pc + 2 ∧
      t = { s with st := t.st, pc := t.pc } ∧ SameRegsBut [] s t ∧ SameMemory s t)

/-- 44_timers.md R196: a timer written in a cycle is ticked at its end under the coupled mode, and keeps the written value
under the independent mode (the spec's decision D19; log entry 2). -/
def Obligations.TimerWriteIsTickedInItsCycle : Prop :=
  ∀ (s : State) (op : Word) (x : Nibble), s.ready → s.fetch = .ok op →
    (decode op = .instr (.ldDtVx x) → ∃ t, step s = .next t ∧
      (s.cfg.tickMode = .coupled → t.dt.toNat = (s.reg x).toNat - 1) ∧
      (s.cfg.tickMode = .independent → t.dt = s.reg x)) ∧
    (decode op = .instr (.ldStVx x) → ∃ t, step s = .next t ∧
      (s.cfg.tickMode = .coupled → t.st.toNat = (s.reg x).toNat - 1) ∧
      (s.cfg.tickMode = .independent → t.st = s.reg x))

/-! ### Keypad -/

/-- 45_keypad.md R211 to R213: Ex9E and ExA1, and a key index above 15 under each policy (`P_KEY_INDEX`, the spec's
decision D16; log entry 2). -/
def Obligations.KeySkipsReadTheKeyOfVx : Prop :=
  ∀ (s : State) (x : Nibble),
    (∀ k : Fin 16, (s.reg x).toNat = k.val ∨ 15 < (s.reg x).toNat ∧ s.cfg.keyIndex = .mask ∧ (s.reg x).toNat % 16 = k.val →
      Completes (.skp x) s (fun t => t.pc = (if s.key k = true then s.pc + 4 else s.pc + 2) ∧ OnlyPc s t) ∧
      Completes (.sknp x) s (fun t => t.pc = (if s.key k = true then s.pc + 2 else s.pc + 4) ∧ OnlyPc s t)) ∧
    (15 < (s.reg x).toNat → s.cfg.keyIndex = .notPressed →
      Completes (.skp x) s (fun t => t.pc = s.pc + 2 ∧ OnlyPc s t) ∧
      Completes (.sknp x) s (fun t => t.pc = s.pc + 4 ∧ OnlyPc s t)) ∧
    (15 < (s.reg x).toNat → s.cfg.keyIndex = .fault →
      exec (.skp x) s = .fault (.keyIndexOutOfRange (s.reg x)) ∧
      exec (.sknp x) s = .fault (.keyIndexOutOfRange (s.reg x)))

/-- 45_keypad.md R214: Fx0A completes with the lowest pressed key, or suspends with PC unchanged (that a key already held
completes it is the spec's decision D17; log entry 18). -/
def Obligations.KeyWaitCompletesOrSuspends : Prop :=
  ∀ (s : State) (x : Nibble),
    (∀ k, LowestPressedIs s k →
      Completes (.ldVxK x) s fun t => (t.reg x).toNat = k.val ∧ t.pc = s.pc + 2 ∧ OnlyRegs [x] s t) ∧
    (NoKeyPressed s →
      Completes (.ldVxK x) s fun t => t = { s with mode := .awaitingKey x } ∧ SameRegsBut [] s t ∧ SameMemory s t)

/-- 45_keypad.md R216: the cycle of a pending wait (no fetch while waiting is the spec's decision D28; log entry 18). -/
def Obligations.PendingWaitResolvesOnAKey : Prop :=
  ∀ (s : State) (r : Nibble), s.run = .running → s.mode = .awaitingKey r →
    (∀ k, LowestPressedIs s k → ∃ t, step s = .next t.endCycle ∧
      (t.reg r).toNat = k.val ∧ t.mode = .free ∧ t.pc = s.pc + 2 ∧
      t = { s with v := t.v, mode := t.mode, pc := t.pc } ∧ SameRegsBut [r] s t ∧ SameMemory s t) ∧
    (NoKeyPressed s → step s = .next s.endCycle)

/-- 45_keypad.md R219: resolving a pending wait gives the same state as executing its Fx0A again would. -/
def Obligations.WaitEqualsReexecution : Prop :=
  ∀ (s : State) (r : Nibble), s.run = .running → s.mode = .awaitingKey r → s.fetch = .ok (encode (.ldVxK r)) →
    step s = step { s with mode := .free }

/-! ### Display -/

/-- 46_display.md R231: 00E0. -/
def Obligations.ClearScreenBlanksAndSetsRedraw : Prop :=
  decode 0x00E0 = .instr .cls ∧ ∀ s : State,
    Completes .cls s fun t =>
      (∀ c r, t.pixel c r = false) ∧ t.redraw = true ∧ t.pc = s.pc + 2 ∧
      t = { s with display := t.display, redraw := t.redraw, pc := t.pc } ∧ SameRegsBut [] s t ∧ SameMemory s t

/-- 46_display.md R232 to R237: Dxyn. Each drawn pixel ends as its old value XOR 1 and every other pixel as it was; VF is 1
exactly when some drawn pixel was on before the draw; the redraw flag is set whether or not a pixel changed, with
`n = 0` too. Which pixels are drawn follows R232 to R235, for both edge policies: that pixels past the edge are clipped or
wrapped and that the origin is read before VF is written are the spec's decisions D11 and D12 (log entry 19). -/
def Obligations.DrawXorsPixelsAndReportsCollision : Prop :=
  ∀ (s : State) (x y n : Nibble), (n = 0 ∨ s.i.toNat + n.toNat ≤ 0x1000) →
    Completes (.drw x y n) s fun t =>
      (∀ c r, SpritePixelDrawn s x y n c r → t.pixel c r = !s.pixel c r) ∧
      (∀ c r, ¬SpritePixelDrawn s x y n c r → t.pixel c r = s.pixel c r) ∧
      ((∃ c r, SpritePixelDrawn s x y n c r ∧ s.pixel c r = true) → t.reg vf = 1) ∧
      ((∀ c r, SpritePixelDrawn s x y n c r → s.pixel c r = false) → t.reg vf = 0) ∧
      t.redraw = true ∧ t.pc = s.pc + 2 ∧
      t = { s with v := t.v, display := t.display, redraw := t.redraw, pc := t.pc } ∧
      SameRegsBut [vf] s t ∧ SameMemory s t

/-- 46_display.md R235, 60_exceptions.md R253: Dxyn faults when a sprite byte lies above 0xFFF (the spec's decisions D4
and D5; log entry 14). -/
def Obligations.DrawPastMemoryFaults : Prop :=
  ∀ (s : State) (x y n : Nibble), n ≠ 0 → 0xFFF < s.i.toNat + (n.toNat - 1) →
    exec (.drw x y n) s = .fault (.addressOutOfRange (max s.i.toNat 0x1000))

/-- 46_display.md R235, R236, R238: drawing the same sprite twice at the same origin restores the display. The second
draw collides exactly when some drawn pixel was off before the first; where all of them were off, as on a blank display,
that is R238's "exactly when the sprite has at least one drawn (not clipped) pixel" (log entry 32). -/
def Obligations.DrawingTwiceRestoresTheDisplay : Prop :=
  ∀ (s t u : State) (x y n : Nibble), exec (.drw x y n) s = .next t →
    u.display = t.display → u.i = s.i → (∀ k, k < n.toNat → u.byteAt (s.i.toNat + k) = s.byteAt (s.i.toNat + k)) →
    u.reg x = s.reg x → u.reg y = s.reg y → u.cfg.spriteEdge = s.cfg.spriteEdge →
    Completes (.drw x y n) u fun w =>
      w.display = s.display ∧
      ((∃ c r, SpritePixelDrawn s x y n c r ∧ s.pixel c r = false) → w.reg vf = 1) ∧
      ((∀ c r, SpritePixelDrawn s x y n c r → s.pixel c r = true) → w.reg vf = 0)

/-! ### Reset and load -/

/-- 10_state.md R40, 70_reset_and_hazards.md R280: what the reset input leaves, from any state, for what the source gives:
PC, the timers and the font; for the rest, the spec's decision D6 under `P_INIT = zero` (log entry 4), and the values the
input carries under `P_INIT = unspecified` (log entry 31). That the parameters stay and the oracle is not rewound is log
entry 22. -/
def Obligations.ResetLeavesTheStatedValues : Prop :=
  ∀ (s : State) (u : InitValues), ∃ t, s.accept (.reset u) = .next t ∧
    t.pc = 0x200 ∧ t.dt = 0 ∧ t.st = 0 ∧ t.cfg = s.cfg ∧ t.draws = s.draws ∧ t.started = false ∧
    (∀ (d : Fin 16) (k : Fin 5), t.byteAt (0x050 + 5 * d.val + k.val) = (s.cfg.font[d.val])[k.val]) ∧
    (s.cfg.init = .zero →
      (∀ a, a < 0x050 ∨ 0x09F < a → t.byteAt a = 0) ∧ (∀ j, t.reg j = 0) ∧ t.i = 0 ∧ t.sp = 0 ∧
      (∀ k : Fin 16, t.stack[k.val] = 0) ∧ NoKeyPressed t ∧ t.mode = .free ∧ (∀ c r, t.pixel c r = false) ∧
      t.redraw = false ∧ t.run = .running) ∧
    (s.cfg.init = .unspecified →
      (∀ l r a b, u.mem = l ++ (a, b) :: r → (∀ c ∈ r, c.1 ≠ a) → a < 0x050 ∨ 0x09F < a ∧ a ≤ 0xFFF → t.byteAt a = b) ∧
      (∀ a, (∀ c ∈ u.mem, c.1 ≠ a) → a < 0x050 ∨ 0x09F < a → t.byteAt a = 0) ∧
      t.v = u.v ∧ t.i = u.i ∧ t.sp = u.sp ∧ t.stack = u.stack ∧ t.keys = u.keys ∧ t.mode = u.mode ∧
      t.display = u.display ∧ t.redraw = u.redraw ∧ t.run = u.run)

/-- 70_reset_and_hazards.md R283, R284: `load` between reset and the first cycle, and its default origin 0x200 (its limits
are the spec's decision D24; log entry 28). -/
def Obligations.LoadPlacesBytesOrRefuses : Prop :=
  ∀ (s : State) (bytes : List Byte) (origin : Nat),
    (s.run = .running → s.started = false → origin < 0x0A0 →
      s.accept (.load bytes (some origin)) = .next { s with run := .halted (.loadOverlapsFont origin) }) ∧
    (s.run = .running → s.started = false → 0x0A0 ≤ origin → 0x1000 < origin + bytes.length →
      s.accept (.load bytes (some origin)) = .next { s with run := .halted (.romTooLarge bytes.length) }) ∧
    (s.run = .running → s.started = false → 0x0A0 ≤ origin → origin + bytes.length ≤ 0x1000 →
      ∃ t, s.accept (.load bytes (some origin)) = .next t ∧ t = { s with mem := t.mem } ∧
        (∀ k (h : k < bytes.length), t.byteAt (origin + k) = bytes[k]) ∧
        SameMemoryOutside origin bytes.length s t) ∧
    s.accept (.load bytes none) = s.accept (.load bytes (some 0x200)) ∧
    (s.started = true → s.accept (.load bytes (some origin)) = .next s)
end

