-- ==== Sys2Proof/Laws/Decode.lean ====
section
/-! SUPPORT. The laws of instruction words: the fields of a word put together from its parts, and a word put together
again from its fields. They let a proof about decoding go on without looking at a bit. -/

namespace Sys2Proof

/-- Concatenation as a number. -/
theorem toNat_concat {m k : Nat} (a : BitVec m) (b : BitVec k) : (a ++ b).toNat = a.toNat * 2 ^ k + b.toNat := by
  rw [BitVec.toNat_append, ← Nat.shiftLeft_add_eq_or_of_lt b.isLt, Nat.shiftLeft_eq]

/-- A field as a number. -/
theorem toNat_field {w : Nat} (lo len : Nat) (v : BitVec w) :
    (v.extractLsb' lo len).toNat = v.toNat / 2 ^ lo % 2 ^ len := by
  rw [BitVec.extractLsb'_toNat, Nat.shiftRight_eq_div_pow]

/-- The word `tttt xxxx yyyy nnnn` as a number. -/
theorem toNat_txyn (t x y n : Nibble) :
    (t ++ x ++ y ++ n : Word).toNat = t.toNat * 4096 + x.toNat * 256 + y.toNat * 16 + n.toNat := by
  refine (toNat_concat (t ++ x ++ y) n).trans ?_
  rw [toNat_concat, toNat_concat]
  omega

/-- The address `xxxx yyyy nnnn` as a number. -/
theorem toNat_xyn (x y n : Nibble) : (x ++ y ++ n : Addr12).toNat = x.toNat * 256 + y.toNat * 16 + n.toNat := by
  refine (toNat_concat (x ++ y) n).trans ?_
  rw [toNat_concat]
  omega

/-- The word `tttt xxxx kkkkkkkk` as a number. -/
theorem toNat_txkk (t x : Nibble) (kk : Byte) :
    (t ++ x ++ kk : Word).toNat = t.toNat * 4096 + x.toNat * 256 + kk.toNat := by
  refine (toNat_concat (t ++ x) kk).trans ?_
  rw [toNat_concat]
  omega

/-- The word `tttt nnnnnnnnnnnn` as a number. -/
theorem toNat_tnnn (t : Nibble) (nnn : Addr12) : (t ++ nnn : Word).toNat = t.toNat * 4096 + nnn.toNat :=
  toNat_concat t nnn

/-- The fields of `tttt xxxx yyyy nnnn` (30_encoding.md R81). -/
theorem fieldsOf_txyn (t x y n : Nibble) : fieldsOf (t ++ x ++ y ++ n : Word) = ⟨t, x, y, n, y ++ n, x ++ y ++ n⟩ := by
  have h := toNat_txyn t x y n
  have hb : (y ++ n : Byte).toNat = y.toNat * 16 + n.toNat := toNat_concat y n
  have ha := toNat_xyn x y n
  have := t.isLt
  have := x.isLt
  have := y.isLt
  have := n.isLt
  unfold fieldsOf
  congr 1 <;> apply BitVec.eq_of_toNat_eq <;> refine (toNat_field _ _ _).trans ?_ <;> omega

/-- The family of `tttt xxxx kkkkkkkk`. -/
theorem fieldsOf_txkk_t (t x : Nibble) (kk : Byte) : (fieldsOf (t ++ x ++ kk : Word)).t = t := by
  have h := toNat_txkk t x kk
  have := t.isLt
  have := x.isLt
  have := kk.isLt
  apply BitVec.eq_of_toNat_eq
  refine (toNat_field _ _ _).trans ?_
  omega

/-- The register field of `tttt xxxx kkkkkkkk`. -/
theorem fieldsOf_txkk_x (t x : Nibble) (kk : Byte) : (fieldsOf (t ++ x ++ kk : Word)).x = x := by
  have h := toNat_txkk t x kk
  have := t.isLt
  have := x.isLt
  have := kk.isLt
  apply BitVec.eq_of_toNat_eq
  refine (toNat_field _ _ _).trans ?_
  omega

/-- The byte field of `tttt xxxx kkkkkkkk`. -/
theorem fieldsOf_txkk_kk (t x : Nibble) (kk : Byte) : (fieldsOf (t ++ x ++ kk : Word)).kk = kk := by
  have h := toNat_txkk t x kk
  have := t.isLt
  have := x.isLt
  have := kk.isLt
  apply BitVec.eq_of_toNat_eq
  refine (toNat_field _ _ _).trans ?_
  omega

/-- The family of `tttt nnnnnnnnnnnn`. -/
theorem fieldsOf_tnnn_t (t : Nibble) (nnn : Addr12) : (fieldsOf (t ++ nnn : Word)).t = t := by
  have h := toNat_tnnn t nnn
  have := t.isLt
  have := nnn.isLt
  apply BitVec.eq_of_toNat_eq
  refine (toNat_field _ _ _).trans ?_
  omega

/-- The address field of `tttt nnnnnnnnnnnn`. -/
theorem fieldsOf_tnnn_nnn (t : Nibble) (nnn : Addr12) : (fieldsOf (t ++ nnn : Word)).nnn = nnn := by
  have h := toNat_tnnn t nnn
  have := t.isLt
  have := nnn.isLt
  apply BitVec.eq_of_toNat_eq
  refine (toNat_field _ _ _).trans ?_
  omega

/-- A word is its four nibbles. -/
theorem word_eq_txyn (op : Word) :
    op = (fieldsOf op).t ++ (fieldsOf op).x ++ (fieldsOf op).y ++ (fieldsOf op).n := by
  apply BitVec.eq_of_toNat_eq
  rw [toNat_txyn]
  have := op.isLt
  simp only [fieldsOf, toNat_field]
  omega

/-- A word is its family, register and byte. -/
theorem word_eq_txkk (op : Word) : op = (fieldsOf op).t ++ (fieldsOf op).x ++ (fieldsOf op).kk := by
  apply BitVec.eq_of_toNat_eq
  rw [toNat_txkk]
  have := op.isLt
  simp only [fieldsOf, toNat_field]
  omega

/-- A word is its family and address. -/
theorem word_eq_tnnn (op : Word) : op = (fieldsOf op).t ++ (fieldsOf op).nnn := by
  apply BitVec.eq_of_toNat_eq
  rw [toNat_tnnn]
  have := op.isLt
  simp only [fieldsOf, toNat_field]
  omega

/-- The overlaps of a word's fields agree. -/
theorem fieldsOf_wellFormed (op : Word) : (fieldsOf op).wellFormed = true := by
  have h := fieldsOf_txyn (fieldsOf op).t (fieldsOf op).x (fieldsOf op).y (fieldsOf op).n
  rw [← word_eq_txyn op] at h
  rw [h]
  simp [Fields.wellFormed, Fields.byteAgrees, Fields.addressAgrees]

/-- The two bytes of a word, joined, are the word. -/
theorem joinBytes_split (op : Word) : joinBytes (op.extractLsb' 8 8) (op.extractLsb' 0 8) = op := by
  apply BitVec.eq_of_toNat_eq
  refine (toNat_concat _ _).trans ?_
  have := op.isLt
  rw [toNat_field, toNat_field]
  omega

/-- The decoder reads a word's own bytes as the word. -/
theorem decodeBytes_wordBytes (op : Word) (rest : List Byte) :
    decodeBytes (wordBytes op ++ rest) = .ok (decode op, rest) := by
  simp [decodeBytes, wordBytes, joinBytes_split]

/-- A word reported unrecognised is the word decoded. -/
theorem decode_unrecognised {op op' : Word} (h : decode op = .unrecognised op') : op' = op := by
  unfold decode decodeFields decodeFamily0 decodeFamily8 decodeFamilyE decodeFamilyF at h
  repeat' split at h
  all_goals cases h <;> rfl

end Sys2Proof
end

