-- ==== Sys2Proof/Laws/State.lean ====
section
/-! SUPPORT. What each update of the state does to each field: one lemma per field per update, so that no proof unfolds
a record update. -/

namespace Sys2Proof.Machine

/-! ### storeByte -/

@[simp] theorem State.storeByte_mem (s : State) (a : Nat) (b : Byte) : (s.storeByte a b).mem = s.mem.write s.cfg.font a b := rfl
@[simp] theorem State.storeByte_v (s : State) (a : Nat) (b : Byte) : (s.storeByte a b).v = s.v := rfl
@[simp] theorem State.storeByte_i (s : State) (a : Nat) (b : Byte) : (s.storeByte a b).i = s.i := rfl
@[simp] theorem State.storeByte_pc (s : State) (a : Nat) (b : Byte) : (s.storeByte a b).pc = s.pc := rfl
@[simp] theorem State.storeByte_stack (s : State) (a : Nat) (b : Byte) : (s.storeByte a b).stack = s.stack := rfl
@[simp] theorem State.storeByte_sp (s : State) (a : Nat) (b : Byte) : (s.storeByte a b).sp = s.sp := rfl
@[simp] theorem State.storeByte_dt (s : State) (a : Nat) (b : Byte) : (s.storeByte a b).dt = s.dt := rfl
@[simp] theorem State.storeByte_st (s : State) (a : Nat) (b : Byte) : (s.storeByte a b).st = s.st := rfl
@[simp] theorem State.storeByte_keys (s : State) (a : Nat) (b : Byte) : (s.storeByte a b).keys = s.keys := rfl
@[simp] theorem State.storeByte_mode (s : State) (a : Nat) (b : Byte) : (s.storeByte a b).mode = s.mode := rfl
@[simp] theorem State.storeByte_display (s : State) (a : Nat) (b : Byte) : (s.storeByte a b).display = s.display := rfl
@[simp] theorem State.storeByte_redraw (s : State) (a : Nat) (b : Byte) : (s.storeByte a b).redraw = s.redraw := rfl
@[simp] theorem State.storeByte_run (s : State) (a : Nat) (b : Byte) : (s.storeByte a b).run = s.run := rfl
@[simp] theorem State.storeByte_started (s : State) (a : Nat) (b : Byte) : (s.storeByte a b).started = s.started := rfl
@[simp] theorem State.storeByte_draws (s : State) (a : Nat) (b : Byte) : (s.storeByte a b).draws = s.draws := rfl
@[simp] theorem State.storeByte_cfg (s : State) (a : Nat) (b : Byte) : (s.storeByte a b).cfg = s.cfg := rfl

/-! ### setReg -/

@[simp] theorem State.setReg_mem (s : State) (x : Nibble) (b : Byte) : (s.setReg x b).mem = s.mem := rfl
@[simp] theorem State.setReg_v (s : State) (x : Nibble) (b : Byte) : (s.setReg x b).v = s.v.set x.toNat b x.isLt := rfl
@[simp] theorem State.setReg_i (s : State) (x : Nibble) (b : Byte) : (s.setReg x b).i = s.i := rfl
@[simp] theorem State.setReg_pc (s : State) (x : Nibble) (b : Byte) : (s.setReg x b).pc = s.pc := rfl
@[simp] theorem State.setReg_stack (s : State) (x : Nibble) (b : Byte) : (s.setReg x b).stack = s.stack := rfl
@[simp] theorem State.setReg_sp (s : State) (x : Nibble) (b : Byte) : (s.setReg x b).sp = s.sp := rfl
@[simp] theorem State.setReg_dt (s : State) (x : Nibble) (b : Byte) : (s.setReg x b).dt = s.dt := rfl
@[simp] theorem State.setReg_st (s : State) (x : Nibble) (b : Byte) : (s.setReg x b).st = s.st := rfl
@[simp] theorem State.setReg_keys (s : State) (x : Nibble) (b : Byte) : (s.setReg x b).keys = s.keys := rfl
@[simp] theorem State.setReg_mode (s : State) (x : Nibble) (b : Byte) : (s.setReg x b).mode = s.mode := rfl
@[simp] theorem State.setReg_display (s : State) (x : Nibble) (b : Byte) : (s.setReg x b).display = s.display := rfl
@[simp] theorem State.setReg_redraw (s : State) (x : Nibble) (b : Byte) : (s.setReg x b).redraw = s.redraw := rfl
@[simp] theorem State.setReg_run (s : State) (x : Nibble) (b : Byte) : (s.setReg x b).run = s.run := rfl
@[simp] theorem State.setReg_started (s : State) (x : Nibble) (b : Byte) : (s.setReg x b).started = s.started := rfl
@[simp] theorem State.setReg_draws (s : State) (x : Nibble) (b : Byte) : (s.setReg x b).draws = s.draws := rfl
@[simp] theorem State.setReg_cfg (s : State) (x : Nibble) (b : Byte) : (s.setReg x b).cfg = s.cfg := rfl

/-! ### setI -/

@[simp] theorem State.setI_mem (s : State) (a : Word) : (s.setI a).mem = s.mem := rfl
@[simp] theorem State.setI_v (s : State) (a : Word) : (s.setI a).v = s.v := rfl
@[simp] theorem State.setI_i (s : State) (a : Word) : (s.setI a).i = a := rfl
@[simp] theorem State.setI_pc (s : State) (a : Word) : (s.setI a).pc = s.pc := rfl
@[simp] theorem State.setI_stack (s : State) (a : Word) : (s.setI a).stack = s.stack := rfl
@[simp] theorem State.setI_sp (s : State) (a : Word) : (s.setI a).sp = s.sp := rfl
@[simp] theorem State.setI_dt (s : State) (a : Word) : (s.setI a).dt = s.dt := rfl
@[simp] theorem State.setI_st (s : State) (a : Word) : (s.setI a).st = s.st := rfl
@[simp] theorem State.setI_keys (s : State) (a : Word) : (s.setI a).keys = s.keys := rfl
@[simp] theorem State.setI_mode (s : State) (a : Word) : (s.setI a).mode = s.mode := rfl
@[simp] theorem State.setI_display (s : State) (a : Word) : (s.setI a).display = s.display := rfl
@[simp] theorem State.setI_redraw (s : State) (a : Word) : (s.setI a).redraw = s.redraw := rfl
@[simp] theorem State.setI_run (s : State) (a : Word) : (s.setI a).run = s.run := rfl
@[simp] theorem State.setI_started (s : State) (a : Word) : (s.setI a).started = s.started := rfl
@[simp] theorem State.setI_draws (s : State) (a : Word) : (s.setI a).draws = s.draws := rfl
@[simp] theorem State.setI_cfg (s : State) (a : Word) : (s.setI a).cfg = s.cfg := rfl

/-! ### setPc -/

@[simp] theorem State.setPc_mem (s : State) (a : Word) : (s.setPc a).mem = s.mem := rfl
@[simp] theorem State.setPc_v (s : State) (a : Word) : (s.setPc a).v = s.v := rfl
@[simp] theorem State.setPc_i (s : State) (a : Word) : (s.setPc a).i = s.i := rfl
@[simp] theorem State.setPc_pc (s : State) (a : Word) : (s.setPc a).pc = a := rfl
@[simp] theorem State.setPc_stack (s : State) (a : Word) : (s.setPc a).stack = s.stack := rfl
@[simp] theorem State.setPc_sp (s : State) (a : Word) : (s.setPc a).sp = s.sp := rfl
@[simp] theorem State.setPc_dt (s : State) (a : Word) : (s.setPc a).dt = s.dt := rfl
@[simp] theorem State.setPc_st (s : State) (a : Word) : (s.setPc a).st = s.st := rfl
@[simp] theorem State.setPc_keys (s : State) (a : Word) : (s.setPc a).keys = s.keys := rfl
@[simp] theorem State.setPc_mode (s : State) (a : Word) : (s.setPc a).mode = s.mode := rfl
@[simp] theorem State.setPc_display (s : State) (a : Word) : (s.setPc a).display = s.display := rfl
@[simp] theorem State.setPc_redraw (s : State) (a : Word) : (s.setPc a).redraw = s.redraw := rfl
@[simp] theorem State.setPc_run (s : State) (a : Word) : (s.setPc a).run = s.run := rfl
@[simp] theorem State.setPc_started (s : State) (a : Word) : (s.setPc a).started = s.started := rfl
@[simp] theorem State.setPc_draws (s : State) (a : Word) : (s.setPc a).draws = s.draws := rfl
@[simp] theorem State.setPc_cfg (s : State) (a : Word) : (s.setPc a).cfg = s.cfg := rfl

/-! ### advance -/

@[simp] theorem State.advance_mem (s : State) : (s.advance).mem = s.mem := rfl
@[simp] theorem State.advance_v (s : State) : (s.advance).v = s.v := rfl
@[simp] theorem State.advance_i (s : State) : (s.advance).i = s.i := rfl
@[simp] theorem State.advance_pc (s : State) : (s.advance).pc = s.pc + 2 := rfl
@[simp] theorem State.advance_stack (s : State) : (s.advance).stack = s.stack := rfl
@[simp] theorem State.advance_sp (s : State) : (s.advance).sp = s.sp := rfl
@[simp] theorem State.advance_dt (s : State) : (s.advance).dt = s.dt := rfl
@[simp] theorem State.advance_st (s : State) : (s.advance).st = s.st := rfl
@[simp] theorem State.advance_keys (s : State) : (s.advance).keys = s.keys := rfl
@[simp] theorem State.advance_mode (s : State) : (s.advance).mode = s.mode := rfl
@[simp] theorem State.advance_display (s : State) : (s.advance).display = s.display := rfl
@[simp] theorem State.advance_redraw (s : State) : (s.advance).redraw = s.redraw := rfl
@[simp] theorem State.advance_run (s : State) : (s.advance).run = s.run := rfl
@[simp] theorem State.advance_started (s : State) : (s.advance).started = s.started := rfl
@[simp] theorem State.advance_draws (s : State) : (s.advance).draws = s.draws := rfl
@[simp] theorem State.advance_cfg (s : State) : (s.advance).cfg = s.cfg := rfl

/-! ### skipIf -/

@[simp] theorem State.skipIf_mem (s : State) (c : Bool) : (s.skipIf c).mem = s.mem := rfl
@[simp] theorem State.skipIf_v (s : State) (c : Bool) : (s.skipIf c).v = s.v := rfl
@[simp] theorem State.skipIf_i (s : State) (c : Bool) : (s.skipIf c).i = s.i := rfl
@[simp] theorem State.skipIf_pc (s : State) (c : Bool) : (s.skipIf c).pc = if c then s.pc + 4 else s.pc + 2 := rfl
@[simp] theorem State.skipIf_stack (s : State) (c : Bool) : (s.skipIf c).stack = s.stack := rfl
@[simp] theorem State.skipIf_sp (s : State) (c : Bool) : (s.skipIf c).sp = s.sp := rfl
@[simp] theorem State.skipIf_dt (s : State) (c : Bool) : (s.skipIf c).dt = s.dt := rfl
@[simp] theorem State.skipIf_st (s : State) (c : Bool) : (s.skipIf c).st = s.st := rfl
@[simp] theorem State.skipIf_keys (s : State) (c : Bool) : (s.skipIf c).keys = s.keys := rfl
@[simp] theorem State.skipIf_mode (s : State) (c : Bool) : (s.skipIf c).mode = s.mode := rfl
@[simp] theorem State.skipIf_display (s : State) (c : Bool) : (s.skipIf c).display = s.display := rfl
@[simp] theorem State.skipIf_redraw (s : State) (c : Bool) : (s.skipIf c).redraw = s.redraw := rfl
@[simp] theorem State.skipIf_run (s : State) (c : Bool) : (s.skipIf c).run = s.run := rfl
@[simp] theorem State.skipIf_started (s : State) (c : Bool) : (s.skipIf c).started = s.started := rfl
@[simp] theorem State.skipIf_draws (s : State) (c : Bool) : (s.skipIf c).draws = s.draws := rfl
@[simp] theorem State.skipIf_cfg (s : State) (c : Bool) : (s.skipIf c).cfg = s.cfg := rfl

/-! ### setDt -/

@[simp] theorem State.setDt_mem (s : State) (b : Byte) : (s.setDt b).mem = s.mem := rfl
@[simp] theorem State.setDt_v (s : State) (b : Byte) : (s.setDt b).v = s.v := rfl
@[simp] theorem State.setDt_i (s : State) (b : Byte) : (s.setDt b).i = s.i := rfl
@[simp] theorem State.setDt_pc (s : State) (b : Byte) : (s.setDt b).pc = s.pc := rfl
@[simp] theorem State.setDt_stack (s : State) (b : Byte) : (s.setDt b).stack = s.stack := rfl
@[simp] theorem State.setDt_sp (s : State) (b : Byte) : (s.setDt b).sp = s.sp := rfl
@[simp] theorem State.setDt_dt (s : State) (b : Byte) : (s.setDt b).dt = b := rfl
@[simp] theorem State.setDt_st (s : State) (b : Byte) : (s.setDt b).st = s.st := rfl
@[simp] theorem State.setDt_keys (s : State) (b : Byte) : (s.setDt b).keys = s.keys := rfl
@[simp] theorem State.setDt_mode (s : State) (b : Byte) : (s.setDt b).mode = s.mode := rfl
@[simp] theorem State.setDt_display (s : State) (b : Byte) : (s.setDt b).display = s.display := rfl
@[simp] theorem State.setDt_redraw (s : State) (b : Byte) : (s.setDt b).redraw = s.redraw := rfl
@[simp] theorem State.setDt_run (s : State) (b : Byte) : (s.setDt b).run = s.run := rfl
@[simp] theorem State.setDt_started (s : State) (b : Byte) : (s.setDt b).started = s.started := rfl
@[simp] theorem State.setDt_draws (s : State) (b : Byte) : (s.setDt b).draws = s.draws := rfl
@[simp] theorem State.setDt_cfg (s : State) (b : Byte) : (s.setDt b).cfg = s.cfg := rfl

/-! ### setSt -/

@[simp] theorem State.setSt_mem (s : State) (b : Byte) : (s.setSt b).mem = s.mem := rfl
@[simp] theorem State.setSt_v (s : State) (b : Byte) : (s.setSt b).v = s.v := rfl
@[simp] theorem State.setSt_i (s : State) (b : Byte) : (s.setSt b).i = s.i := rfl
@[simp] theorem State.setSt_pc (s : State) (b : Byte) : (s.setSt b).pc = s.pc := rfl
@[simp] theorem State.setSt_stack (s : State) (b : Byte) : (s.setSt b).stack = s.stack := rfl
@[simp] theorem State.setSt_sp (s : State) (b : Byte) : (s.setSt b).sp = s.sp := rfl
@[simp] theorem State.setSt_dt (s : State) (b : Byte) : (s.setSt b).dt = s.dt := rfl
@[simp] theorem State.setSt_st (s : State) (b : Byte) : (s.setSt b).st = b := rfl
@[simp] theorem State.setSt_keys (s : State) (b : Byte) : (s.setSt b).keys = s.keys := rfl
@[simp] theorem State.setSt_mode (s : State) (b : Byte) : (s.setSt b).mode = s.mode := rfl
@[simp] theorem State.setSt_display (s : State) (b : Byte) : (s.setSt b).display = s.display := rfl
@[simp] theorem State.setSt_redraw (s : State) (b : Byte) : (s.setSt b).redraw = s.redraw := rfl
@[simp] theorem State.setSt_run (s : State) (b : Byte) : (s.setSt b).run = s.run := rfl
@[simp] theorem State.setSt_started (s : State) (b : Byte) : (s.setSt b).started = s.started := rfl
@[simp] theorem State.setSt_draws (s : State) (b : Byte) : (s.setSt b).draws = s.draws := rfl
@[simp] theorem State.setSt_cfg (s : State) (b : Byte) : (s.setSt b).cfg = s.cfg := rfl

/-! ### tickTimers -/

@[simp] theorem State.tickTimers_mem (s : State) : (s.tickTimers).mem = s.mem := rfl
@[simp] theorem State.tickTimers_v (s : State) : (s.tickTimers).v = s.v := rfl
@[simp] theorem State.tickTimers_i (s : State) : (s.tickTimers).i = s.i := rfl
@[simp] theorem State.tickTimers_pc (s : State) : (s.tickTimers).pc = s.pc := rfl
@[simp] theorem State.tickTimers_stack (s : State) : (s.tickTimers).stack = s.stack := rfl
@[simp] theorem State.tickTimers_sp (s : State) : (s.tickTimers).sp = s.sp := rfl
@[simp] theorem State.tickTimers_dt (s : State) : (s.tickTimers).dt = countDown s.dt := rfl
@[simp] theorem State.tickTimers_st (s : State) : (s.tickTimers).st = countDown s.st := rfl
@[simp] theorem State.tickTimers_keys (s : State) : (s.tickTimers).keys = s.keys := rfl
@[simp] theorem State.tickTimers_mode (s : State) : (s.tickTimers).mode = s.mode := rfl
@[simp] theorem State.tickTimers_display (s : State) : (s.tickTimers).display = s.display := rfl
@[simp] theorem State.tickTimers_redraw (s : State) : (s.tickTimers).redraw = s.redraw := rfl
@[simp] theorem State.tickTimers_run (s : State) : (s.tickTimers).run = s.run := rfl
@[simp] theorem State.tickTimers_started (s : State) : (s.tickTimers).started = s.started := rfl
@[simp] theorem State.tickTimers_draws (s : State) : (s.tickTimers).draws = s.draws := rfl
@[simp] theorem State.tickTimers_cfg (s : State) : (s.tickTimers).cfg = s.cfg := rfl

/-! ### setKey -/

@[simp] theorem State.setKey_mem (s : State) (k : Fin 16) (p : Bool) : (s.setKey k p).mem = s.mem := rfl
@[simp] theorem State.setKey_v (s : State) (k : Fin 16) (p : Bool) : (s.setKey k p).v = s.v := rfl
@[simp] theorem State.setKey_i (s : State) (k : Fin 16) (p : Bool) : (s.setKey k p).i = s.i := rfl
@[simp] theorem State.setKey_pc (s : State) (k : Fin 16) (p : Bool) : (s.setKey k p).pc = s.pc := rfl
@[simp] theorem State.setKey_stack (s : State) (k : Fin 16) (p : Bool) : (s.setKey k p).stack = s.stack := rfl
@[simp] theorem State.setKey_sp (s : State) (k : Fin 16) (p : Bool) : (s.setKey k p).sp = s.sp := rfl
@[simp] theorem State.setKey_dt (s : State) (k : Fin 16) (p : Bool) : (s.setKey k p).dt = s.dt := rfl
@[simp] theorem State.setKey_st (s : State) (k : Fin 16) (p : Bool) : (s.setKey k p).st = s.st := rfl
@[simp] theorem State.setKey_keys (s : State) (k : Fin 16) (p : Bool) : (s.setKey k p).keys = s.keys.set k.val p k.isLt := rfl
@[simp] theorem State.setKey_mode (s : State) (k : Fin 16) (p : Bool) : (s.setKey k p).mode = s.mode := rfl
@[simp] theorem State.setKey_display (s : State) (k : Fin 16) (p : Bool) : (s.setKey k p).display = s.display := rfl
@[simp] theorem State.setKey_redraw (s : State) (k : Fin 16) (p : Bool) : (s.setKey k p).redraw = s.redraw := rfl
@[simp] theorem State.setKey_run (s : State) (k : Fin 16) (p : Bool) : (s.setKey k p).run = s.run := rfl
@[simp] theorem State.setKey_started (s : State) (k : Fin 16) (p : Bool) : (s.setKey k p).started = s.started := rfl
@[simp] theorem State.setKey_draws (s : State) (k : Fin 16) (p : Bool) : (s.setKey k p).draws = s.draws := rfl
@[simp] theorem State.setKey_cfg (s : State) (k : Fin 16) (p : Bool) : (s.setKey k p).cfg = s.cfg := rfl

/-! ### setMode -/

@[simp] theorem State.setMode_mem (s : State) (m : KeypadMode) : (s.setMode m).mem = s.mem := rfl
@[simp] theorem State.setMode_v (s : State) (m : KeypadMode) : (s.setMode m).v = s.v := rfl
@[simp] theorem State.setMode_i (s : State) (m : KeypadMode) : (s.setMode m).i = s.i := rfl
@[simp] theorem State.setMode_pc (s : State) (m : KeypadMode) : (s.setMode m).pc = s.pc := rfl
@[simp] theorem State.setMode_stack (s : State) (m : KeypadMode) : (s.setMode m).stack = s.stack := rfl
@[simp] theorem State.setMode_sp (s : State) (m : KeypadMode) : (s.setMode m).sp = s.sp := rfl
@[simp] theorem State.setMode_dt (s : State) (m : KeypadMode) : (s.setMode m).dt = s.dt := rfl
@[simp] theorem State.setMode_st (s : State) (m : KeypadMode) : (s.setMode m).st = s.st := rfl
@[simp] theorem State.setMode_keys (s : State) (m : KeypadMode) : (s.setMode m).keys = s.keys := rfl
@[simp] theorem State.setMode_mode (s : State) (m : KeypadMode) : (s.setMode m).mode = m := rfl
@[simp] theorem State.setMode_display (s : State) (m : KeypadMode) : (s.setMode m).display = s.display := rfl
@[simp] theorem State.setMode_redraw (s : State) (m : KeypadMode) : (s.setMode m).redraw = s.redraw := rfl
@[simp] theorem State.setMode_run (s : State) (m : KeypadMode) : (s.setMode m).run = s.run := rfl
@[simp] theorem State.setMode_started (s : State) (m : KeypadMode) : (s.setMode m).started = s.started := rfl
@[simp] theorem State.setMode_draws (s : State) (m : KeypadMode) : (s.setMode m).draws = s.draws := rfl
@[simp] theorem State.setMode_cfg (s : State) (m : KeypadMode) : (s.setMode m).cfg = s.cfg := rfl

/-! ### setDisplay -/

@[simp] theorem State.setDisplay_mem (s : State) (d : Display) : (s.setDisplay d).mem = s.mem := rfl
@[simp] theorem State.setDisplay_v (s : State) (d : Display) : (s.setDisplay d).v = s.v := rfl
@[simp] theorem State.setDisplay_i (s : State) (d : Display) : (s.setDisplay d).i = s.i := rfl
@[simp] theorem State.setDisplay_pc (s : State) (d : Display) : (s.setDisplay d).pc = s.pc := rfl
@[simp] theorem State.setDisplay_stack (s : State) (d : Display) : (s.setDisplay d).stack = s.stack := rfl
@[simp] theorem State.setDisplay_sp (s : State) (d : Display) : (s.setDisplay d).sp = s.sp := rfl
@[simp] theorem State.setDisplay_dt (s : State) (d : Display) : (s.setDisplay d).dt = s.dt := rfl
@[simp] theorem State.setDisplay_st (s : State) (d : Display) : (s.setDisplay d).st = s.st := rfl
@[simp] theorem State.setDisplay_keys (s : State) (d : Display) : (s.setDisplay d).keys = s.keys := rfl
@[simp] theorem State.setDisplay_mode (s : State) (d : Display) : (s.setDisplay d).mode = s.mode := rfl
@[simp] theorem State.setDisplay_display (s : State) (d : Display) : (s.setDisplay d).display = d := rfl
@[simp] theorem State.setDisplay_redraw (s : State) (d : Display) : (s.setDisplay d).redraw = s.redraw := rfl
@[simp] theorem State.setDisplay_run (s : State) (d : Display) : (s.setDisplay d).run = s.run := rfl
@[simp] theorem State.setDisplay_started (s : State) (d : Display) : (s.setDisplay d).started = s.started := rfl
@[simp] theorem State.setDisplay_draws (s : State) (d : Display) : (s.setDisplay d).draws = s.draws := rfl
@[simp] theorem State.setDisplay_cfg (s : State) (d : Display) : (s.setDisplay d).cfg = s.cfg := rfl

/-! ### setRedraw -/

@[simp] theorem State.setRedraw_mem (s : State) (b : Bool) : (s.setRedraw b).mem = s.mem := rfl
@[simp] theorem State.setRedraw_v (s : State) (b : Bool) : (s.setRedraw b).v = s.v := rfl
@[simp] theorem State.setRedraw_i (s : State) (b : Bool) : (s.setRedraw b).i = s.i := rfl
@[simp] theorem State.setRedraw_pc (s : State) (b : Bool) : (s.setRedraw b).pc = s.pc := rfl
@[simp] theorem State.setRedraw_stack (s : State) (b : Bool) : (s.setRedraw b).stack = s.stack := rfl
@[simp] theorem State.setRedraw_sp (s : State) (b : Bool) : (s.setRedraw b).sp = s.sp := rfl
@[simp] theorem State.setRedraw_dt (s : State) (b : Bool) : (s.setRedraw b).dt = s.dt := rfl
@[simp] theorem State.setRedraw_st (s : State) (b : Bool) : (s.setRedraw b).st = s.st := rfl
@[simp] theorem State.setRedraw_keys (s : State) (b : Bool) : (s.setRedraw b).keys = s.keys := rfl
@[simp] theorem State.setRedraw_mode (s : State) (b : Bool) : (s.setRedraw b).mode = s.mode := rfl
@[simp] theorem State.setRedraw_display (s : State) (b : Bool) : (s.setRedraw b).display = s.display := rfl
@[simp] theorem State.setRedraw_redraw (s : State) (b : Bool) : (s.setRedraw b).redraw = b := rfl
@[simp] theorem State.setRedraw_run (s : State) (b : Bool) : (s.setRedraw b).run = s.run := rfl
@[simp] theorem State.setRedraw_started (s : State) (b : Bool) : (s.setRedraw b).started = s.started := rfl
@[simp] theorem State.setRedraw_draws (s : State) (b : Bool) : (s.setRedraw b).draws = s.draws := rfl
@[simp] theorem State.setRedraw_cfg (s : State) (b : Bool) : (s.setRedraw b).cfg = s.cfg := rfl

/-! ### drawn -/

@[simp] theorem State.drawn_mem (s : State) : (s.drawn).mem = s.mem := rfl
@[simp] theorem State.drawn_v (s : State) : (s.drawn).v = s.v := rfl
@[simp] theorem State.drawn_i (s : State) : (s.drawn).i = s.i := rfl
@[simp] theorem State.drawn_pc (s : State) : (s.drawn).pc = s.pc := rfl
@[simp] theorem State.drawn_stack (s : State) : (s.drawn).stack = s.stack := rfl
@[simp] theorem State.drawn_sp (s : State) : (s.drawn).sp = s.sp := rfl
@[simp] theorem State.drawn_dt (s : State) : (s.drawn).dt = s.dt := rfl
@[simp] theorem State.drawn_st (s : State) : (s.drawn).st = s.st := rfl
@[simp] theorem State.drawn_keys (s : State) : (s.drawn).keys = s.keys := rfl
@[simp] theorem State.drawn_mode (s : State) : (s.drawn).mode = s.mode := rfl
@[simp] theorem State.drawn_display (s : State) : (s.drawn).display = s.display := rfl
@[simp] theorem State.drawn_redraw (s : State) : (s.drawn).redraw = s.redraw := rfl
@[simp] theorem State.drawn_run (s : State) : (s.drawn).run = s.run := rfl
@[simp] theorem State.drawn_started (s : State) : (s.drawn).started = s.started := rfl
@[simp] theorem State.drawn_draws (s : State) : (s.drawn).draws = s.draws + 1 := rfl
@[simp] theorem State.drawn_cfg (s : State) : (s.drawn).cfg = s.cfg := rfl

/-! ### setRun -/

@[simp] theorem State.setRun_mem (s : State) (r : RunStatus) : (s.setRun r).mem = s.mem := rfl
@[simp] theorem State.setRun_v (s : State) (r : RunStatus) : (s.setRun r).v = s.v := rfl
@[simp] theorem State.setRun_i (s : State) (r : RunStatus) : (s.setRun r).i = s.i := rfl
@[simp] theorem State.setRun_pc (s : State) (r : RunStatus) : (s.setRun r).pc = s.pc := rfl
@[simp] theorem State.setRun_stack (s : State) (r : RunStatus) : (s.setRun r).stack = s.stack := rfl
@[simp] theorem State.setRun_sp (s : State) (r : RunStatus) : (s.setRun r).sp = s.sp := rfl
@[simp] theorem State.setRun_dt (s : State) (r : RunStatus) : (s.setRun r).dt = s.dt := rfl
@[simp] theorem State.setRun_st (s : State) (r : RunStatus) : (s.setRun r).st = s.st := rfl
@[simp] theorem State.setRun_keys (s : State) (r : RunStatus) : (s.setRun r).keys = s.keys := rfl
@[simp] theorem State.setRun_mode (s : State) (r : RunStatus) : (s.setRun r).mode = s.mode := rfl
@[simp] theorem State.setRun_display (s : State) (r : RunStatus) : (s.setRun r).display = s.display := rfl
@[simp] theorem State.setRun_redraw (s : State) (r : RunStatus) : (s.setRun r).redraw = s.redraw := rfl
@[simp] theorem State.setRun_run (s : State) (r : RunStatus) : (s.setRun r).run = r := rfl
@[simp] theorem State.setRun_started (s : State) (r : RunStatus) : (s.setRun r).started = s.started := rfl
@[simp] theorem State.setRun_draws (s : State) (r : RunStatus) : (s.setRun r).draws = s.draws := rfl
@[simp] theorem State.setRun_cfg (s : State) (r : RunStatus) : (s.setRun r).cfg = s.cfg := rfl

/-! ### halt -/

@[simp] theorem State.halt_mem (s : State) (f : Fault) : (s.halt f).mem = s.mem := rfl
@[simp] theorem State.halt_v (s : State) (f : Fault) : (s.halt f).v = s.v := rfl
@[simp] theorem State.halt_i (s : State) (f : Fault) : (s.halt f).i = s.i := rfl
@[simp] theorem State.halt_pc (s : State) (f : Fault) : (s.halt f).pc = s.pc := rfl
@[simp] theorem State.halt_stack (s : State) (f : Fault) : (s.halt f).stack = s.stack := rfl
@[simp] theorem State.halt_sp (s : State) (f : Fault) : (s.halt f).sp = s.sp := rfl
@[simp] theorem State.halt_dt (s : State) (f : Fault) : (s.halt f).dt = s.dt := rfl
@[simp] theorem State.halt_st (s : State) (f : Fault) : (s.halt f).st = s.st := rfl
@[simp] theorem State.halt_keys (s : State) (f : Fault) : (s.halt f).keys = s.keys := rfl
@[simp] theorem State.halt_mode (s : State) (f : Fault) : (s.halt f).mode = s.mode := rfl
@[simp] theorem State.halt_display (s : State) (f : Fault) : (s.halt f).display = s.display := rfl
@[simp] theorem State.halt_redraw (s : State) (f : Fault) : (s.halt f).redraw = s.redraw := rfl
@[simp] theorem State.halt_run (s : State) (f : Fault) : (s.halt f).run = .halted f := rfl
@[simp] theorem State.halt_started (s : State) (f : Fault) : (s.halt f).started = s.started := rfl
@[simp] theorem State.halt_draws (s : State) (f : Fault) : (s.halt f).draws = s.draws := rfl
@[simp] theorem State.halt_cfg (s : State) (f : Fault) : (s.halt f).cfg = s.cfg := rfl

/-! ### setStarted -/

@[simp] theorem State.setStarted_mem (s : State) (b : Bool) : (s.setStarted b).mem = s.mem := rfl
@[simp] theorem State.setStarted_v (s : State) (b : Bool) : (s.setStarted b).v = s.v := rfl
@[simp] theorem State.setStarted_i (s : State) (b : Bool) : (s.setStarted b).i = s.i := rfl
@[simp] theorem State.setStarted_pc (s : State) (b : Bool) : (s.setStarted b).pc = s.pc := rfl
@[simp] theorem State.setStarted_stack (s : State) (b : Bool) : (s.setStarted b).stack = s.stack := rfl
@[simp] theorem State.setStarted_sp (s : State) (b : Bool) : (s.setStarted b).sp = s.sp := rfl
@[simp] theorem State.setStarted_dt (s : State) (b : Bool) : (s.setStarted b).dt = s.dt := rfl
@[simp] theorem State.setStarted_st (s : State) (b : Bool) : (s.setStarted b).st = s.st := rfl
@[simp] theorem State.setStarted_keys (s : State) (b : Bool) : (s.setStarted b).keys = s.keys := rfl
@[simp] theorem State.setStarted_mode (s : State) (b : Bool) : (s.setStarted b).mode = s.mode := rfl
@[simp] theorem State.setStarted_display (s : State) (b : Bool) : (s.setStarted b).display = s.display := rfl
@[simp] theorem State.setStarted_redraw (s : State) (b : Bool) : (s.setStarted b).redraw = s.redraw := rfl
@[simp] theorem State.setStarted_run (s : State) (b : Bool) : (s.setStarted b).run = s.run := rfl
@[simp] theorem State.setStarted_started (s : State) (b : Bool) : (s.setStarted b).started = b := rfl
@[simp] theorem State.setStarted_draws (s : State) (b : Bool) : (s.setStarted b).draws = s.draws := rfl
@[simp] theorem State.setStarted_cfg (s : State) (b : Bool) : (s.setStarted b).cfg = s.cfg := rfl

/-! ### The end of a cycle -/

@[simp] theorem State.endCycle_mem (s : State) : s.endCycle.mem = s.mem := by
  unfold State.endCycle State.tickIfCoupled
  cases s.cfg.tickMode <;> rfl
@[simp] theorem State.endCycle_v (s : State) : s.endCycle.v = s.v := by
  unfold State.endCycle State.tickIfCoupled
  cases s.cfg.tickMode <;> rfl
@[simp] theorem State.endCycle_i (s : State) : s.endCycle.i = s.i := by
  unfold State.endCycle State.tickIfCoupled
  cases s.cfg.tickMode <;> rfl
@[simp] theorem State.endCycle_pc (s : State) : s.endCycle.pc = s.pc := by
  unfold State.endCycle State.tickIfCoupled
  cases s.cfg.tickMode <;> rfl
@[simp] theorem State.endCycle_stack (s : State) : s.endCycle.stack = s.stack := by
  unfold State.endCycle State.tickIfCoupled
  cases s.cfg.tickMode <;> rfl
@[simp] theorem State.endCycle_sp (s : State) : s.endCycle.sp = s.sp := by
  unfold State.endCycle State.tickIfCoupled
  cases s.cfg.tickMode <;> rfl
@[simp] theorem State.endCycle_dt (s : State) :
    s.endCycle.dt = match s.cfg.tickMode with | .coupled => countDown s.dt | .independent => s.dt := by
  unfold State.endCycle State.tickIfCoupled
  cases s.cfg.tickMode <;> rfl
@[simp] theorem State.endCycle_st (s : State) :
    s.endCycle.st = match s.cfg.tickMode with | .coupled => countDown s.st | .independent => s.st := by
  unfold State.endCycle State.tickIfCoupled
  cases s.cfg.tickMode <;> rfl
@[simp] theorem State.endCycle_keys (s : State) : s.endCycle.keys = s.keys := by
  unfold State.endCycle State.tickIfCoupled
  cases s.cfg.tickMode <;> rfl
@[simp] theorem State.endCycle_mode (s : State) : s.endCycle.mode = s.mode := by
  unfold State.endCycle State.tickIfCoupled
  cases s.cfg.tickMode <;> rfl
@[simp] theorem State.endCycle_display (s : State) : s.endCycle.display = s.display := by
  unfold State.endCycle State.tickIfCoupled
  cases s.cfg.tickMode <;> rfl
@[simp] theorem State.endCycle_redraw (s : State) : s.endCycle.redraw = s.redraw := by
  unfold State.endCycle State.tickIfCoupled
  cases s.cfg.tickMode <;> rfl
@[simp] theorem State.endCycle_run (s : State) : s.endCycle.run = s.run := by
  unfold State.endCycle State.tickIfCoupled
  cases s.cfg.tickMode <;> rfl
@[simp] theorem State.endCycle_started (s : State) : s.endCycle.started = true := rfl
@[simp] theorem State.endCycle_draws (s : State) : s.endCycle.draws = s.draws := by
  unfold State.endCycle State.tickIfCoupled
  cases s.cfg.tickMode <;> rfl
@[simp] theorem State.endCycle_cfg (s : State) : s.endCycle.cfg = s.cfg := by
  unfold State.endCycle State.tickIfCoupled
  cases s.cfg.tickMode <;> rfl

end Sys2Proof.Machine
end

