-- ==== Sys2Proof/Laws/Memory.lean ====
section
/-! SUPPORT. The laws of memory: a read after a write, what a write leaves, and that every operation keeps the canonical
form. The read laws need no premise on the memory: they hold of a list in any order. -/

namespace Sys2Proof.Machine

variable {font : Vector (Vector Byte 5) 16}

/-! ### Reading after one write -/

theorem Memory.read_erase_same (m : Memory) (a : Nat) : (m.erase a).read font a = unlistedByte font a := by
  induction m with
  | nil => rfl
  | cons c rest ih =>
    obtain ⟨k, b⟩ := c
    by_cases h : k = a
    · simpa [Memory.erase, h] using ih
    · have : Memory.erase ((k, b) :: rest) a = (k, b) :: Memory.erase rest a := by simp [Memory.erase, h]
      rw [this, Memory.read, if_neg h, ih]

theorem Memory.read_erase_other (m : Memory) {a c : Nat} (h : c ≠ a) : (m.erase a).read font c = m.read font c := by
  induction m with
  | nil => rfl
  | cons d rest ih =>
    obtain ⟨k, b⟩ := d
    by_cases hk : k = a
    · have hc : k ≠ c := fun e => h (e ▸ hk)
      have : Memory.erase ((k, b) :: rest) a = Memory.erase rest a := by simp [Memory.erase, hk]
      rw [this, ih, Memory.read, if_neg hc]
    · have : Memory.erase ((k, b) :: rest) a = (k, b) :: Memory.erase rest a := by simp [Memory.erase, hk]
      rw [this, Memory.read, Memory.read, ih]

theorem Memory.read_insert_other (m : Memory) (b : Byte) {a c : Nat} (h : c ≠ a) :
    (m.insert (a, b)).read font c = m.read font c := by
  induction m with
  | nil => simp [Memory.insert, Memory.read, Ne.symm h]
  | cons d rest ih =>
    obtain ⟨k, e⟩ := d
    by_cases hk : a < k
    · simp [Memory.insert, hk, Memory.read, Ne.symm h]
    · simp [Memory.insert, hk, Memory.read, ih]

theorem Memory.read_insert_same (m : Memory) (a : Nat) (b : Byte) (h : ∀ c ∈ m, c.1 ≠ a) :
    (m.insert (a, b)).read font a = b := by
  induction m with
  | nil => simp [Memory.insert, Memory.read]
  | cons d rest ih =>
    obtain ⟨k, e⟩ := d
    have hk : k ≠ a := h (k, e) (by simp)
    by_cases hlt : a < k
    · simp [Memory.insert, hlt, Memory.read]
    · simp [Memory.insert, hlt, Memory.read, hk, ih fun c hc => h c (by simp [hc])]

/-- The law of one write: the address reads as the byte written, every other address as before. -/
theorem Memory.read_write (m : Memory) (a c : Nat) (b : Byte) :
    (m.write font a b).read font c = if c = a then b else m.read font c := by
  unfold Memory.write
  by_cases hc : c = a
  · subst hc
    by_cases hb : b = unlistedByte font c
    · simp [hb, Memory.read_erase_same]
    · rw [if_neg hb, if_pos rfl]
      exact Memory.read_insert_same _ _ _ (by simp [Memory.erase])
  · rw [if_neg hc]
    split
    · exact Memory.read_erase_other m hc
    · rw [Memory.read_insert_other _ _ hc, Memory.read_erase_other m hc]

/-! ### The canonical form -/

theorem Memory.wf_nil : Memory.wf font [] := by simp [Memory.wf]

theorem Memory.wf_erase {m : Memory} (a : Nat) (h : Memory.wf font m) : Memory.wf font (m.erase a) :=
  ⟨h.1.sublist List.filter_sublist, fun c hc => h.2 c (List.mem_of_mem_filter hc)⟩

theorem Memory.mem_insert {m : Memory} {c d : Host.Cell} : d ∈ m.insert c ↔ d = c ∨ d ∈ m := by
  induction m with
  | nil => simp [Memory.insert]
  | cons e rest ih =>
    by_cases h : c.1 < e.1
    · simp [Memory.insert, h]
    · simp only [Memory.insert, if_neg h, List.mem_cons, ih]
      tauto

theorem Memory.sorted_insert {m : Memory} {c : Host.Cell} (h : m.Pairwise fun d e => d.1 < e.1)
    (hc : ∀ d ∈ m, d.1 ≠ c.1) : (m.insert c).Pairwise fun d e => d.1 < e.1 := by
  induction m with
  | nil => simp [Memory.insert]
  | cons d rest ih =>
    rw [List.pairwise_cons] at h
    by_cases hlt : c.1 < d.1
    · rw [Memory.insert, if_pos hlt, List.pairwise_cons, List.pairwise_cons]
      refine ⟨fun e he => ?_, h⟩
      rcases List.mem_cons.1 he with rfl | he
      · exact hlt
      · exact hlt.trans (h.1 e he)
    · rw [Memory.insert, if_neg hlt, List.pairwise_cons]
      refine ⟨fun e he => ?_, ih h.2 fun e he => hc e (by simp [he])⟩
      rcases Memory.mem_insert.1 he with rfl | he
      · exact lt_of_le_of_ne (not_lt.1 hlt) (hc d (by simp))
      · exact h.1 e he

/-- A write inside memory keeps the canonical form. -/
theorem Memory.wf_write {m : Memory} {a : Nat} (b : Byte) (ha : a < memSize) (h : Memory.wf font m) :
    Memory.wf font (m.write font a b) := by
  have he := Memory.wf_erase a h
  unfold Memory.write
  split
  · exact he
  · rename_i hb
    refine ⟨Memory.sorted_insert he.1 (by simp [Memory.erase]), fun c hc => ?_⟩
    rcases Memory.mem_insert.1 hc with rfl | hc
    · exact ⟨ha, hb⟩
    · exact he.2 c hc

/-! ### The state's memory operations -/

/-- A byte read after one stored. -/
theorem State.byteAt_storeByte (s : State) (a c : Nat) (b : Byte) :
    (s.storeByte a b).byteAt c = if c = a then b else s.byteAt c := by
  simp [State.byteAt, Memory.read_write]

/-- A byte read depends on memory and the font alone. -/
theorem State.byteAt_congr {s t : State} (hm : t.mem = s.mem) (hc : t.cfg = s.cfg) (a : Nat) : t.byteAt a = s.byteAt a := by
  unfold State.byteAt
  rw [hm, hc]

/-- Stored bytes change memory and nothing else. -/
theorem State.storeBytes_eq (s : State) (a : Nat) (bs : List Byte) :
    s.storeBytes a bs = { s with mem := (s.storeBytes a bs).mem } := by
  induction bs generalizing s a with
  | nil => rfl
  | cons b rest ih =>
    show (s.storeByte a b).storeBytes (a + 1) rest = _
    rw [ih]
    rfl

/-- A byte read after several stored: the one stored there, or the old one. -/
theorem State.byteAt_storeBytes (s : State) (a c : Nat) (bs : List Byte) :
    (s.storeBytes a bs).byteAt c = if h : a ≤ c ∧ c < a + bs.length then bs[c - a] else s.byteAt c := by
  induction bs generalizing s a with
  | nil =>
    rw [dif_neg (by simp)]
    rfl
  | cons b rest ih =>
    show ((s.storeByte a b).storeBytes (a + 1) rest).byteAt c = _
    rw [ih, State.byteAt_storeByte]
    by_cases hca : c = a
    · subst hca
      rw [dif_neg (by omega), if_pos rfl, dif_pos ⟨le_refl _, by simp⟩]
      simp
    · rw [if_neg hca]
      by_cases h : a + 1 ≤ c ∧ c < a + 1 + rest.length
      · rw [dif_pos h, dif_pos ⟨by omega, by simp only [List.length_cons]; omega⟩]
        have : c - a = (c - (a + 1)) + 1 := by omega
        simp [this]
      · rw [dif_neg h, dif_neg (by simp only [List.length_cons]; omega)]

theorem State.wf_storeByte {s : State} {a : Nat} (b : Byte) (ha : a < memSize) (h : Memory.wf s.cfg.font s.mem) :
    Memory.wf (s.storeByte a b).cfg.font (s.storeByte a b).mem := Memory.wf_write b ha h

/-- Bytes stored inside memory keep the canonical form. -/
theorem State.wf_storeBytes {s : State} {a : Nat} (bs : List Byte) (ha : a + bs.length ≤ memSize)
    (h : Memory.wf s.cfg.font s.mem) : Memory.wf s.cfg.font (s.storeBytes a bs).mem := by
  induction bs generalizing s a with
  | nil => exact h
  | cons b rest ih =>
    simp only [List.length_cons] at ha
    exact ih (s := s.storeByte a b) (by omega) (State.wf_storeByte b (by omega) h)

/-- The number of bytes read. -/
@[simp] theorem State.length_readBytes (s : State) (a n : Nat) : (s.readBytes a n).length = n := by
  simp [State.readBytes]

/-- One of the bytes read. -/
@[simp] theorem State.getElem_readBytes (s : State) (a n k : Nat) (h : k < (s.readBytes a n).length) :
    (s.readBytes a n)[k] = s.byteAt (a + k) := by
  simp [State.readBytes]

/-- Reset memory is in canonical form. -/
theorem State.wf_reset : Memory.wf State.reset.cfg.font State.reset.mem := Memory.wf_nil

end Sys2Proof.Machine
end

