-- ==== Sys2Proof/Laws/Registers.lean ====
section
/-! SUPPORT. The laws of the registers, the stack, the timers, the keys and the pixels: a read after a write, and what
each shared operation answers. -/

namespace Sys2Proof.Machine

/-! ### General registers -/

/-- A register read after one written. -/
theorem State.reg_setReg (s : State) (x j : Nibble) (b : Byte) :
    (s.setReg x b).reg j = if j = x then b else s.reg j := by
  simp only [State.reg, State.setReg, Vector.getElem_set]
  by_cases h : j = x
  · simp [h]
  · rw [if_neg h, if_neg fun e => h (BitVec.eq_of_toNat_eq e.symm)]

@[simp] theorem State.reg_setReg_same (s : State) (x : Nibble) (b : Byte) : (s.setReg x b).reg x = b := by
  simp [State.reg_setReg]

/-- A register read depends on the register file alone. -/
theorem State.reg_congr {s t : State} (h : t.v = s.v) (j : Nibble) : t.reg j = s.reg j := by
  unfold State.reg
  rw [h]

/-- A result and its flag: VF holds the flag, whatever the destination. -/
theorem State.reg_setRegFlag (s : State) (x j : Nibble) (b : Byte) (f : Bool) :
    (s.setRegFlag x b f).reg j = if j = vf then flagByte f else if j = x then b else s.reg j := by
  simp [State.setRegFlag, State.reg_setReg]

/-- A result and its flag change the register file and nothing else. -/
theorem State.setRegFlag_eq (s : State) (x : Nibble) (b : Byte) (f : Bool) :
    s.setRegFlag x b f = { s with v := (s.setRegFlag x b f).v } := rfl

/-- Registers written in order change the register file and nothing else. -/
theorem State.setRegs_eq (s : State) (k : Nat) (bs : List Byte) :
    s.setRegs k bs = { s with v := (s.setRegs k bs).v } := by
  induction bs generalizing s k with
  | nil => rfl
  | cons b rest ih =>
    show (s.setReg _ b).setRegs (k + 1) rest = _
    rw [ih]
    rfl

/-- A register read after several written: the byte written there, or the old one. -/
theorem State.reg_setRegs (s : State) (k : Nat) (bs : List Byte) (hk : k + bs.length ≤ 16) (j : Nibble) :
    (s.setRegs k bs).reg j = if h : k ≤ j.toNat ∧ j.toNat < k + bs.length then bs[j.toNat - k] else s.reg j := by
  induction bs generalizing s k with
  | nil =>
    rw [dif_neg (by simp)]
    rfl
  | cons b rest ih =>
    simp only [List.length_cons] at hk
    show ((s.setReg (BitVec.ofNat 4 k) b).setRegs (k + 1) rest).reg j = _
    rw [ih _ _ (by omega), State.reg_setReg]
    have hkv : (BitVec.ofNat 4 k).toNat = k := by simp; omega
    by_cases hj : j.toNat = k
    · have : j = BitVec.ofNat 4 k := BitVec.eq_of_toNat_eq (by rw [hkv, hj])
      rw [dif_neg (by omega), if_pos this, dif_pos ⟨by omega, by simp; omega⟩]
      simp [hj]
    · have : j ≠ BitVec.ofNat 4 k := fun e => hj (by rw [e, hkv])
      rw [if_neg this]
      by_cases h : k + 1 ≤ j.toNat ∧ j.toNat < k + 1 + rest.length
      · rw [dif_pos h, dif_pos ⟨by omega, by simp only [List.length_cons]; omega⟩]
        have : j.toNat - k = (j.toNat - (k + 1)) + 1 := by omega
        simp [this]
      · rw [dif_neg h, dif_neg (by simp only [List.length_cons]; omega)]

@[simp] theorem State.length_readRegs (s : State) (n : Nat) : (s.readRegs n).length = n := by simp [State.readRegs]

@[simp] theorem State.getElem_readRegs (s : State) (n k : Nat) (h : k < (s.readRegs n).length) :
    (s.readRegs n)[k] = s.reg (BitVec.ofNat 4 k) := by
  simp [State.readRegs]

/-! ### The stack -/

/-- What a push answers: nothing on a full stack, else the entry written and the depth one more. -/
theorem State.push_cases (s : State) (a : Word) :
    (s.sp.val = 16 ∧ s.push a = none) ∨
    ∃ h : s.sp.val < 16, s.push a =
      some { s with stack := s.stack.set s.sp.val a h, sp := ⟨s.sp.val + 1, Nat.succ_lt_succ h⟩ } := by
  unfold State.push
  by_cases h : s.sp.val < 16
  · exact .inr ⟨h, dif_pos h⟩
  · exact .inl ⟨by have := s.sp.isLt; omega, dif_neg h⟩

/-- What a pop answers: nothing on an empty stack, else the top entry and the depth one less. -/
theorem State.pop_cases (s : State) :
    (s.sp.val = 0 ∧ s.pop = none) ∨
    ∃ (k : Nat) (hk : k < 16), s.sp.val = k + 1 ∧
      s.pop = some (s.stack[k], { s with sp := ⟨k, Nat.lt_succ_of_lt hk⟩ }) := by
  by_cases h : s.sp.val = 0
  · exact .inl ⟨h, by simp [State.pop, h]⟩
  · have := s.sp.isLt
    exact .inr ⟨s.sp.val - 1, by omega, by omega, by simp [State.pop, h]⟩

/-! ### Timers -/

/-- A counter goes down by one and stops at zero. -/
theorem countDown_toNat (b : Byte) : (countDown b).toNat = b.toNat - 1 := by
  unfold countDown
  split
  · simp_all
  · rename_i h
    have : b.toNat ≠ 0 := fun e => h (BitVec.eq_of_toNat_eq e)
    have := b.isLt
    rw [BitVec.toNat_sub]
    simp
    omega

/-! ### Keys -/

/-- A key read after one set. -/
theorem State.key_setKey (s : State) (k j : Fin 16) (p : Bool) :
    (s.setKey k p).key j = if j = k then p else s.key j := by
  simp only [State.key, State.setKey, Vector.getElem_set]
  by_cases h : j = k
  · simp [h]
  · rw [if_neg h, if_neg fun e => h (Fin.ext e.symm)]

/-- What the search for a pressed key answers: none when none is pressed, else the lowest. -/
theorem State.lowestPressed_cases (s : State) :
    (s.lowestPressed = none ∧ ∀ k, s.key k = false) ∨
    ∃ k, s.lowestPressed = some k ∧ s.key k = true ∧ ∀ j, j < k → s.key j = false := by
  cases h : s.lowestPressed with
  | none =>
    left
    refine ⟨rfl, fun k => ?_⟩
    simpa using List.find?_eq_none.1 h k (List.mem_finRange k)
  | some k =>
    right
    refine ⟨k, rfl, ?_⟩
    obtain ⟨hk, as, bs, heq, hlt⟩ := List.find?_eq_some_iff_append.1 h
    refine ⟨by simpa using hk, fun j hj => ?_⟩
    have hs : (as ++ k :: bs).Pairwise (· < ·) := heq ▸ List.pairwise_lt_finRange 16
    have hm : j ∈ as ++ k :: bs := heq ▸ List.mem_finRange j
    rcases List.mem_append.1 hm with hm | hm
    · simpa using hlt j hm
    · have := (List.pairwise_append.1 hs).2.1
      rw [List.pairwise_cons] at this
      rcases List.mem_cons.1 hm with rfl | hm
      · exact absurd hj (lt_irrefl _)
      · exact absurd (hj.trans (this.1 j hm)) (lt_irrefl _)

/-! ### Pixels -/

/-- A pixel read after one written. -/
theorem Display.get_put (d : Display) (c c' : Fin 64) (r r' : Fin 32) (b : Bool) :
    Display.get (Display.put d c r b) c' r' = if c' = c ∧ r' = r then b else Display.get d c' r' := by
  simp only [Display.get, Display.put, Vector.getElem_set]
  by_cases hc : c' = c
  · subst hc
    by_cases hr : r' = r
    · simp [hr]
    · have : ¬r.val = r'.val := fun e => hr (Fin.ext e.symm)
      simp [hr, this]
  · have : ¬c.val = c'.val := fun e => hc (Fin.ext e.symm)
    simp [hc, this]

/-- Two displays with the same pixels are one. -/
theorem Display.ext_get {d e : Display} (h : ∀ c r, Display.get d c r = Display.get e c r) : d = e := by
  apply Vector.ext
  intro c hc
  apply Vector.ext
  intro r hr
  exact h ⟨c, hc⟩ ⟨r, hr⟩

/-- Every pixel of the blank display is off. -/
@[simp] theorem Display.get_blank (c : Fin 64) (r : Fin 32) : Display.get Display.blank c r = false := by
  simp [Display.get, Display.blank]

end Sys2Proof.Machine
end

