-- ==== Sys2Proof/Laws/Cycle.lean ====
section
/-! SUPPORT. The laws of the cycle: what a fetch answers, what the shared checks answer, and the cases of a step, said
once so that no proof about a step unfolds it. -/

namespace Sys2Proof.Machine

/-! ### The shared checks -/

/-- The range check passes exactly when every byte of the range lies in memory. -/
theorem rangeFault_eq_none {i : Word} {len : Nat} : rangeFault i len = none ↔ len = 0 ∨ i.toNat + len ≤ 0x1000 := by
  unfold rangeFault
  split
  · simp
    omega
  · simp
    omega

/-- The range check otherwise reports the lowest address of the range above 0xFFF. -/
theorem rangeFault_eq_some {i : Word} {len : Nat} (h : 0 < len) (h' : 0xFFF < i.toNat + (len - 1)) :
    rangeFault i len = some (.addressOutOfRange (max i.toNat 0x1000)) := by
  unfold rangeFault
  rw [if_pos ⟨h, h'⟩]
  rfl

/-- The font check passes under the write policy, or when the range does not meet the font region. -/
theorem State.fontFault_eq_none {s : State} {len : Nat} :
    s.fontFault len = none ↔ s.cfg.fontWrite = .write ∨ 0x09F < s.i.toNat ∨ s.i.toNat + len ≤ 0x050 := by
  unfold State.fontFault fontEnd fontBase
  cases s.cfg.fontWrite with
  | write => simp
  | fault =>
    simp
    omega

/-- The font check otherwise reports the lowest font address of the range. -/
theorem State.fontFault_eq_some {s : State} {len : Nat} (hp : s.cfg.fontWrite = .fault) (h : s.i.toNat ≤ 0x09F)
    (h' : 0x050 < s.i.toNat + len) : s.fontFault len = some (.fontWrite (max s.i.toNat 0x050)) := by
  unfold State.fontFault
  rw [hp]
  exact if_pos ⟨Nat.lt_succ_of_le h, h'⟩

/-- Both checks of a store pass exactly when each does. -/
theorem State.writeFault_eq_none {s : State} {len : Nat} :
    s.writeFault len = none ↔ rangeFault s.i len = none ∧ s.fontFault len = none := by
  unfold State.writeFault
  cases rangeFault s.i len <;> simp

/-! ### The fetch -/

/-- A fetch succeeds exactly when both addresses lie in memory and the odd-PC policy allows it; its word is the one at
PC. -/
theorem State.fetch_eq_ok {s : State} {op : Word} :
    s.fetch = .ok op ↔
      s.pc.toNat ≤ 0xFFE ∧ (s.cfg.oddPc = .fault → s.pc.toNat % 2 = 0) ∧ op = s.wordAtPc := by
  unfold State.fetch addressFault State.oddPcFault
  by_cases h1 : 0xFFF < s.pc.toNat
  · simp [h1]
    omega
  · by_cases h2 : 0xFFF < s.pc.toNat + 1
    · simp [h1, h2]
      omega
    · have h3 : s.pc.toNat ≤ 0xFFE := by omega
      cases hp : s.cfg.oddPc with
      | fetch => simp [h1, h2, h3, eq_comm]
      | fault =>
        by_cases h4 : s.pc.toNat % 2 = 1
        · simp [h1, h2, h4]
        · have h5 : s.pc.toNat % 2 = 0 := by omega
          simp [h1, h2, h3, h5, eq_comm]

/-- A fetch depends on memory, PC and the parameters alone. -/
theorem State.fetch_congr {s t : State} (hm : t.mem = s.mem) (hp : t.pc = s.pc) (hc : t.cfg = s.cfg) :
    t.fetch = s.fetch := by
  have hw : t.wordAtPc = s.wordAtPc := by
    unfold State.wordAtPc State.byteAt
    rw [hm, hp, hc]
  unfold State.fetch State.oddPcFault
  rw [hp, hc, hw]

/-! ### The step -/

theorem step_halted {s : State} {f : Fault} (h : s.run = .halted f) : step s = .next s := by
  simp [step, State.cycle, h]

theorem step_waiting {s : State} {r : Nibble} (hr : s.run = .running) (hm : s.mode = .awaitingKey r) :
    step s = .next (resolveWait r s).endCycle := by
  simp [step, State.cycle, hr, hm]

theorem step_fetch_fault {s : State} {f : Fault} (hr : s.run = .running) (hm : s.mode = .free)
    (hf : s.fetch = .error f) : step s = .next (s.halt f) := by
  simp [step, State.cycle, hr, hm, State.fetchAndRun, hf]

theorem step_fetched {s : State} {op : Word} (hr : s.run = .running) (hm : s.mode = .free)
    (hf : s.fetch = .ok op) : step s = s.settle (execDecoded (decode op) s) := by
  simp [step, State.cycle, hr, hm, State.fetchAndRun, hf]

/-- Everything a step can do: nothing when halted; resolve a pending wait; halt on a fetch fault; pass an unrecognised
word; run an instruction, or halt on the fault it raises. -/
theorem step_cases (s : State) :
    (∃ f, s.run = .halted f ∧ step s = .next s) ∨
    (∃ r, s.run = .running ∧ s.mode = .awaitingKey r ∧ step s = .next (resolveWait r s).endCycle) ∨
    (s.run = .running ∧ s.mode = .free ∧
      ((∃ f, s.fetch = .error f ∧ step s = .next (s.halt f)) ∨
       (∃ op, s.fetch = .ok op ∧ decode op = .unrecognised op ∧ step s = .next s.advance.endCycle) ∨
       (∃ op i, s.fetch = .ok op ∧ decode op = .instr i ∧ step s = s.settle (exec i s)))) := by
  cases hr : s.run with
  | halted f => exact .inl ⟨f, rfl, step_halted hr⟩
  | running =>
    cases hm : s.mode with
    | awaitingKey r => exact .inr (.inl ⟨r, rfl, rfl, step_waiting hr hm⟩)
    | free =>
      refine .inr (.inr ⟨rfl, rfl, ?_⟩)
      cases hf : s.fetch with
      | error f => exact .inl ⟨f, rfl, step_fetch_fault hr hm hf⟩
      | ok op =>
        have hs := step_fetched hr hm hf
        cases hd : decode op with
        | instr i =>
          rw [hd] at hs
          exact .inr (.inr ⟨op, i, rfl, hd, hs⟩)
        | unrecognised op' =>
          have : op' = op := decode_unrecognised hd
          subst this
          rw [hd] at hs
          exact .inr (.inl ⟨op', rfl, hd, hs⟩)

end Sys2Proof.Machine
end

