-- ==== Sys2Proof/Laws/Drawing.lean ====
section
/-! SUPPORT. The laws of drawing: what a list of sprite pixels does to the display, and which pixels a sprite's rows
give. -/

namespace Sys2Proof.Machine

/-- One sprite pixel inverts its pixel and no other. -/
theorem get_togglePixel (acc : Display × Bool) (p : Fin 64 × Fin 32) (c : Fin 64) (r : Fin 32) :
    Display.get (togglePixel acc p).1 c r = (Display.get acc.1 c r ^^ decide ((c, r) = p)) := by
  obtain ⟨pc, pr⟩ := p
  unfold togglePixel
  by_cases h : (c, r) = (pc, pr)
  · obtain ⟨rfl, rfl⟩ := Prod.mk.inj h
    split <;> simp_all [Display.get_put]
  · have h' : ¬(c = pc ∧ r = pr) := fun e => h (by rw [e.1, e.2])
    split <;> simp [Display.get_put, h']

/-- The collision flag after one sprite pixel: set when the pixel was on, else kept. -/
theorem hit_togglePixel (acc : Display × Bool) (p : Fin 64 × Fin 32) :
    (togglePixel acc p).2 = (acc.2 || Display.get acc.1 p.1 p.2) := by
  unfold togglePixel
  split <;> simp_all

/-- A list of different sprite pixels: each pixel of the list is inverted, every other kept, and the flag is set when one
of them was on before. -/
theorem foldl_togglePixel (ps : List (Fin 64 × Fin 32)) (hps : ps.Nodup) (acc : Display × Bool) :
    (∀ c r, Display.get (ps.foldl togglePixel acc).1 c r = (Display.get acc.1 c r ^^ decide ((c, r) ∈ ps))) ∧
    (ps.foldl togglePixel acc).2 = (acc.2 || ps.any fun p => Display.get acc.1 p.1 p.2) := by
  induction ps generalizing acc with
  | nil => simp
  | cons p rest ih =>
    rw [List.nodup_cons] at hps
    obtain ⟨hget, hhit⟩ := ih hps.2 (togglePixel acc p)
    refine ⟨fun c r => ?_, ?_⟩
    · rw [List.foldl_cons, hget, get_togglePixel]
      by_cases hp : (c, r) = p
      · have : (c, r) ∉ rest := hp ▸ hps.1
        rw [decide_eq_false this, decide_eq_true hp, decide_eq_true (List.mem_cons.2 (.inl hp)), Bool.xor_false]
      · simp [hp]
    · rw [List.foldl_cons, hhit, hit_togglePixel, List.any_cons, Bool.or_assoc]
      congr 2
      rw [Bool.eq_iff_iff, List.any_eq_true, List.any_eq_true]
      refine exists_congr fun q => and_congr_right fun hq => ?_
      have : (q.1, q.2) ≠ p := fun e => hps.1 (by rw [← e]; exact hq)
      rw [get_togglePixel, decide_eq_false this, Bool.xor_false]

/-- What a draw does, when no pixel is listed twice. -/
theorem drawPixels_spec (d : Display) (ps : List (Fin 64 × Fin 32)) (hps : ps.Nodup) :
    (∀ c r, Display.get (drawPixels d ps).1 c r = (Display.get d c r ^^ decide ((c, r) ∈ ps))) ∧
    (drawPixels d ps).2 = ps.any fun p => Display.get d p.1 p.2 := by
  simpa [drawPixels] using foldl_togglePixel ps hps (d, false)

/-- Where a sprite pixel is placed. -/
theorem placePixel_eq_some (edge : SpriteEdge) (c r : Nat) (p : Fin 64 × Fin 32) :
    placePixel edge c r = some p ↔
      match edge with
      | .clip => c = p.1.val ∧ r = p.2.val
      | .wrap => c % 64 = p.1.val ∧ r % 32 = p.2.val := by
  obtain ⟨pc, pr⟩ := p
  cases edge with
  | clip =>
    by_cases h : c < 64 ∧ r < 32
    · simp [placePixel, h, Fin.ext_iff]
    · simp only [placePixel, dif_neg h]
      constructor
      · simp
      · rintro ⟨rfl, rfl⟩
        exact absurd ⟨pc.isLt, pr.isLt⟩ h
  | wrap => simp [placePixel, Fin.ext_iff]

/-- The pixels of one sprite row. -/
theorem mem_rowPixels (edge : SpriteEdge) (ox r : Nat) (b : Byte) (p : Fin 64 × Fin 32) :
    p ∈ rowPixels edge ox r b ↔ ∃ k, k < 8 ∧ b.getLsbD (7 - k) = true ∧ placePixel edge (ox + k) r = some p := by
  simp only [rowPixels, List.mem_filterMap, List.mem_range]
  refine exists_congr fun k => and_congr_right fun _ => ?_
  by_cases hb : b.getLsbD (7 - k) <;> simp [hb]

/-- The pixels of a sprite. -/
theorem mem_spritePixels (edge : SpriteEdge) (ox r : Nat) (rows : List Byte) (p : Fin 64 × Fin 32) :
    p ∈ spritePixels edge ox r rows ↔
      ∃ (row : Nat) (h : row < rows.length) (k : Nat), k < 8 ∧ rows[row].getLsbD (7 - k) = true ∧
        placePixel edge (ox + k) (r + row) = some p := by
  induction rows generalizing r with
  | nil => simp [spritePixels]
  | cons b rest ih =>
    rw [spritePixels, List.mem_append, mem_rowPixels, ih]
    constructor
    · rintro (⟨k, hk⟩ | ⟨row, h, k, hk, hb, hp⟩)
      · exact ⟨0, by simp, k, by simpa using hk⟩
      · exact ⟨row + 1, by simpa using h, k, hk, by simpa using hb, by rw [← hp]; congr 1; omega⟩
    · rintro ⟨row, h, k, hk, hb, hp⟩
      cases row with
      | zero => exact .inl ⟨k, hk, by simpa using hb, by simpa using hp⟩
      | succ row =>
        exact .inr ⟨row, by simpa using h, k, hk, by simpa using hb, by rw [← hp]; congr 1; omega⟩

/-- A sprite row draws no pixel twice: its 8 columns differ, wrapped or not. -/
theorem nodup_rowPixels (edge : SpriteEdge) (ox r : Nat) (b : Byte) : (rowPixels edge ox r b).Nodup := by
  unfold rowPixels
  rw [List.Nodup, List.pairwise_filterMap]
  refine List.Pairwise.imp_of_mem ?_ (List.pairwise_lt_range (n := 8))
  intro k k' hk hk' hlt p hp q hq e
  subst e
  rw [List.mem_range] at hk hk'
  split at hp
  case isFalse => cases hp
  split at hq
  case isFalse => cases hq
  have hp := (placePixel_eq_some ..).1 hp
  have hq := (placePixel_eq_some ..).1 hq
  cases edge <;> simp only at hp hq <;> omega

/-- A sprite of at most 32 rows draws no pixel twice. -/
theorem nodup_spritePixels (edge : SpriteEdge) (ox r : Nat) (rows : List Byte) (h : rows.length ≤ 32) :
    (spritePixels edge ox r rows).Nodup := by
  induction rows generalizing r with
  | nil => exact List.nodup_nil
  | cons b rest ih =>
    rw [List.length_cons] at h
    refine List.nodup_append.2 ⟨nodup_rowPixels edge ox r b, ih (r + 1) (by omega), ?_⟩
    rintro p hp q hq rfl
    obtain ⟨k, _, _, hk⟩ := (mem_rowPixels ..).1 hp
    obtain ⟨row, hrow, k', _, _, hk'⟩ := (mem_spritePixels ..).1 hq
    have hk := (placePixel_eq_some ..).1 hk
    have hk' := (placePixel_eq_some ..).1 hk'
    cases edge <;> simp only at hk hk' <;> omega

end Sys2Proof.Machine
end

