-- ==== Sys2Proof/Laws/Reads.lean ====
section
/-! SUPPORT. What each update leaves of each read: a register, a byte, a key and a pixel read as before, except through
the update that writes it (State.reg_setReg, State.byteAt_storeByte, State.key_setKey). -/

namespace Sys2Proof.Machine

/-! ### reg -/

@[simp] theorem State.reg_storeByte (s : State) (a : Nat) (b : Byte) (j : Nibble) :
    (s.storeByte a b).reg j = s.reg j := rfl
@[simp] theorem State.reg_setI (s : State) (a : Word) (j : Nibble) :
    (s.setI a).reg j = s.reg j := rfl
@[simp] theorem State.reg_setPc (s : State) (a : Word) (j : Nibble) :
    (s.setPc a).reg j = s.reg j := rfl
@[simp] theorem State.reg_advance (s : State) (j : Nibble) :
    (s.advance).reg j = s.reg j := rfl
@[simp] theorem State.reg_skipIf (s : State) (c : Bool) (j : Nibble) :
    (s.skipIf c).reg j = s.reg j := rfl
@[simp] theorem State.reg_setDt (s : State) (b : Byte) (j : Nibble) :
    (s.setDt b).reg j = s.reg j := rfl
@[simp] theorem State.reg_setSt (s : State) (b : Byte) (j : Nibble) :
    (s.setSt b).reg j = s.reg j := rfl
@[simp] theorem State.reg_tickTimers (s : State) (j : Nibble) :
    (s.tickTimers).reg j = s.reg j := rfl
@[simp] theorem State.reg_setKey (s : State) (k : Fin 16) (p : Bool) (j : Nibble) :
    (s.setKey k p).reg j = s.reg j := rfl
@[simp] theorem State.reg_setMode (s : State) (m : KeypadMode) (j : Nibble) :
    (s.setMode m).reg j = s.reg j := rfl
@[simp] theorem State.reg_setDisplay (s : State) (d : Display) (j : Nibble) :
    (s.setDisplay d).reg j = s.reg j := rfl
@[simp] theorem State.reg_setRedraw (s : State) (b : Bool) (j : Nibble) :
    (s.setRedraw b).reg j = s.reg j := rfl
@[simp] theorem State.reg_drawn (s : State) (j : Nibble) :
    (s.drawn).reg j = s.reg j := rfl
@[simp] theorem State.reg_setRun (s : State) (r : RunStatus) (j : Nibble) :
    (s.setRun r).reg j = s.reg j := rfl
@[simp] theorem State.reg_halt (s : State) (f : Fault) (j : Nibble) :
    (s.halt f).reg j = s.reg j := rfl
@[simp] theorem State.reg_setStarted (s : State) (b : Bool) (j : Nibble) :
    (s.setStarted b).reg j = s.reg j := rfl
@[simp] theorem State.reg_endCycle (s : State) (j : Nibble) : s.endCycle.reg j = s.reg j :=
  State.reg_congr s.endCycle_v j

/-! ### byteAt -/

@[simp] theorem State.byteAt_setReg (s : State) (x : Nibble) (b : Byte) (a' : Nat) :
    (s.setReg x b).byteAt a' = s.byteAt a' := rfl
@[simp] theorem State.byteAt_setI (s : State) (a : Word) (a' : Nat) :
    (s.setI a).byteAt a' = s.byteAt a' := rfl
@[simp] theorem State.byteAt_setPc (s : State) (a : Word) (a' : Nat) :
    (s.setPc a).byteAt a' = s.byteAt a' := rfl
@[simp] theorem State.byteAt_advance (s : State) (a' : Nat) :
    (s.advance).byteAt a' = s.byteAt a' := rfl
@[simp] theorem State.byteAt_skipIf (s : State) (c : Bool) (a' : Nat) :
    (s.skipIf c).byteAt a' = s.byteAt a' := rfl
@[simp] theorem State.byteAt_setDt (s : State) (b : Byte) (a' : Nat) :
    (s.setDt b).byteAt a' = s.byteAt a' := rfl
@[simp] theorem State.byteAt_setSt (s : State) (b : Byte) (a' : Nat) :
    (s.setSt b).byteAt a' = s.byteAt a' := rfl
@[simp] theorem State.byteAt_tickTimers (s : State) (a' : Nat) :
    (s.tickTimers).byteAt a' = s.byteAt a' := rfl
@[simp] theorem State.byteAt_setKey (s : State) (k : Fin 16) (p : Bool) (a' : Nat) :
    (s.setKey k p).byteAt a' = s.byteAt a' := rfl
@[simp] theorem State.byteAt_setMode (s : State) (m : KeypadMode) (a' : Nat) :
    (s.setMode m).byteAt a' = s.byteAt a' := rfl
@[simp] theorem State.byteAt_setDisplay (s : State) (d : Display) (a' : Nat) :
    (s.setDisplay d).byteAt a' = s.byteAt a' := rfl
@[simp] theorem State.byteAt_setRedraw (s : State) (b : Bool) (a' : Nat) :
    (s.setRedraw b).byteAt a' = s.byteAt a' := rfl
@[simp] theorem State.byteAt_drawn (s : State) (a' : Nat) :
    (s.drawn).byteAt a' = s.byteAt a' := rfl
@[simp] theorem State.byteAt_setRun (s : State) (r : RunStatus) (a' : Nat) :
    (s.setRun r).byteAt a' = s.byteAt a' := rfl
@[simp] theorem State.byteAt_halt (s : State) (f : Fault) (a' : Nat) :
    (s.halt f).byteAt a' = s.byteAt a' := rfl
@[simp] theorem State.byteAt_setStarted (s : State) (b : Bool) (a' : Nat) :
    (s.setStarted b).byteAt a' = s.byteAt a' := rfl
@[simp] theorem State.byteAt_endCycle (s : State) (a' : Nat) : s.endCycle.byteAt a' = s.byteAt a' :=
  State.byteAt_congr s.endCycle_mem s.endCycle_cfg a'

/-! ### key -/

@[simp] theorem State.key_storeByte (s : State) (a : Nat) (b : Byte) (k' : Fin 16) :
    (s.storeByte a b).key k' = s.key k' := rfl
@[simp] theorem State.key_setReg (s : State) (x : Nibble) (b : Byte) (k' : Fin 16) :
    (s.setReg x b).key k' = s.key k' := rfl
@[simp] theorem State.key_setI (s : State) (a : Word) (k' : Fin 16) :
    (s.setI a).key k' = s.key k' := rfl
@[simp] theorem State.key_setPc (s : State) (a : Word) (k' : Fin 16) :
    (s.setPc a).key k' = s.key k' := rfl
@[simp] theorem State.key_advance (s : State) (k' : Fin 16) :
    (s.advance).key k' = s.key k' := rfl
@[simp] theorem State.key_skipIf (s : State) (c : Bool) (k' : Fin 16) :
    (s.skipIf c).key k' = s.key k' := rfl
@[simp] theorem State.key_setDt (s : State) (b : Byte) (k' : Fin 16) :
    (s.setDt b).key k' = s.key k' := rfl
@[simp] theorem State.key_setSt (s : State) (b : Byte) (k' : Fin 16) :
    (s.setSt b).key k' = s.key k' := rfl
@[simp] theorem State.key_tickTimers (s : State) (k' : Fin 16) :
    (s.tickTimers).key k' = s.key k' := rfl
@[simp] theorem State.key_setMode (s : State) (m : KeypadMode) (k' : Fin 16) :
    (s.setMode m).key k' = s.key k' := rfl
@[simp] theorem State.key_setDisplay (s : State) (d : Display) (k' : Fin 16) :
    (s.setDisplay d).key k' = s.key k' := rfl
@[simp] theorem State.key_setRedraw (s : State) (b : Bool) (k' : Fin 16) :
    (s.setRedraw b).key k' = s.key k' := rfl
@[simp] theorem State.key_drawn (s : State) (k' : Fin 16) :
    (s.drawn).key k' = s.key k' := rfl
@[simp] theorem State.key_setRun (s : State) (r : RunStatus) (k' : Fin 16) :
    (s.setRun r).key k' = s.key k' := rfl
@[simp] theorem State.key_halt (s : State) (f : Fault) (k' : Fin 16) :
    (s.halt f).key k' = s.key k' := rfl
@[simp] theorem State.key_setStarted (s : State) (b : Bool) (k' : Fin 16) :
    (s.setStarted b).key k' = s.key k' := rfl
@[simp] theorem State.key_endCycle (s : State) (k' : Fin 16) : s.endCycle.key k' = s.key k' := by
  unfold State.key
  rw [State.endCycle_keys]

/-! ### pixel -/

@[simp] theorem State.pixel_storeByte (s : State) (a : Nat) (b : Byte) (c' : Fin 64) (r' : Fin 32) :
    (s.storeByte a b).pixel c' r' = s.pixel c' r' := rfl
@[simp] theorem State.pixel_setReg (s : State) (x : Nibble) (b : Byte) (c' : Fin 64) (r' : Fin 32) :
    (s.setReg x b).pixel c' r' = s.pixel c' r' := rfl
@[simp] theorem State.pixel_setI (s : State) (a : Word) (c' : Fin 64) (r' : Fin 32) :
    (s.setI a).pixel c' r' = s.pixel c' r' := rfl
@[simp] theorem State.pixel_setPc (s : State) (a : Word) (c' : Fin 64) (r' : Fin 32) :
    (s.setPc a).pixel c' r' = s.pixel c' r' := rfl
@[simp] theorem State.pixel_advance (s : State) (c' : Fin 64) (r' : Fin 32) :
    (s.advance).pixel c' r' = s.pixel c' r' := rfl
@[simp] theorem State.pixel_skipIf (s : State) (c : Bool) (c' : Fin 64) (r' : Fin 32) :
    (s.skipIf c).pixel c' r' = s.pixel c' r' := rfl
@[simp] theorem State.pixel_setDt (s : State) (b : Byte) (c' : Fin 64) (r' : Fin 32) :
    (s.setDt b).pixel c' r' = s.pixel c' r' := rfl
@[simp] theorem State.pixel_setSt (s : State) (b : Byte) (c' : Fin 64) (r' : Fin 32) :
    (s.setSt b).pixel c' r' = s.pixel c' r' := rfl
@[simp] theorem State.pixel_tickTimers (s : State) (c' : Fin 64) (r' : Fin 32) :
    (s.tickTimers).pixel c' r' = s.pixel c' r' := rfl
@[simp] theorem State.pixel_setKey (s : State) (k : Fin 16) (p : Bool) (c' : Fin 64) (r' : Fin 32) :
    (s.setKey k p).pixel c' r' = s.pixel c' r' := rfl
@[simp] theorem State.pixel_setMode (s : State) (m : KeypadMode) (c' : Fin 64) (r' : Fin 32) :
    (s.setMode m).pixel c' r' = s.pixel c' r' := rfl
@[simp] theorem State.pixel_setRedraw (s : State) (b : Bool) (c' : Fin 64) (r' : Fin 32) :
    (s.setRedraw b).pixel c' r' = s.pixel c' r' := rfl
@[simp] theorem State.pixel_drawn (s : State) (c' : Fin 64) (r' : Fin 32) :
    (s.drawn).pixel c' r' = s.pixel c' r' := rfl
@[simp] theorem State.pixel_setRun (s : State) (r : RunStatus) (c' : Fin 64) (r' : Fin 32) :
    (s.setRun r).pixel c' r' = s.pixel c' r' := rfl
@[simp] theorem State.pixel_halt (s : State) (f : Fault) (c' : Fin 64) (r' : Fin 32) :
    (s.halt f).pixel c' r' = s.pixel c' r' := rfl
@[simp] theorem State.pixel_setStarted (s : State) (b : Bool) (c' : Fin 64) (r' : Fin 32) :
    (s.setStarted b).pixel c' r' = s.pixel c' r' := rfl
@[simp] theorem State.pixel_endCycle (s : State) (c' : Fin 64) (r' : Fin 32) : s.endCycle.pixel c' r' = s.pixel c' r' := by
  unfold State.pixel
  rw [State.endCycle_display]

@[simp] theorem State.pixel_setDisplay (s : State) (d : Display) (c : Fin 64) (r : Fin 32) :
    (s.setDisplay d).pixel c r = Display.get d c r := rfl

end Sys2Proof.Machine
end

