-- ==== Sys2Proof/Laws/Exec.lean ====
section
/-! SUPPORT. What a meaning that can fault gives when it answers a next state, one lemma per such meaning; the other
meanings are equations already. And that no instruction is refused. -/

namespace Sys2Proof.Machine

variable {s t : State}

theorem execRet_next (h : execRet s = .next t) :
    ∃ (k : Nat) (hk : k < 16), s.sp.val = k + 1 ∧
      t = ({ s with sp := ⟨k, Nat.lt_succ_of_lt hk⟩ } : State).setPc (s.stack[k] + 2) := by
  rcases s.pop_cases with ⟨_, hp⟩ | ⟨k, hk, hs, hp⟩ <;> simp only [execRet, hp] at h <;> cases h
  exact ⟨k, hk, hs, rfl⟩

theorem execCall_next {nnn : Addr12} (h : execCall nnn s = .next t) :
    ∃ hk : s.sp.val < 16,
      t = ({ s with stack := s.stack.set s.sp.val s.pc hk, sp := ⟨s.sp.val + 1, Nat.succ_lt_succ hk⟩ } : State).setPc
        (nnn.setWidth 16) := by
  rcases s.push_cases s.pc with ⟨_, hp⟩ | ⟨hk, hp⟩ <;> simp only [execCall, hp] at h <;> cases h
  exact ⟨hk, rfl⟩

theorem execSkp_next {x : Nibble} (h : execSkp x s = .next t) :
    ∃ p, s.keyPressed (s.reg x) = .ok p ∧ t = s.skipIf p := by
  unfold execSkp at h
  split at h <;> cases h
  exact ⟨_, ‹_›, rfl⟩

theorem execSknp_next {x : Nibble} (h : execSknp x s = .next t) :
    ∃ p, s.keyPressed (s.reg x) = .ok p ∧ t = s.skipIf (!p) := by
  unfold execSknp at h
  split at h <;> cases h
  exact ⟨_, ‹_›, rfl⟩

theorem execLdVxK_next {x : Nibble} (h : execLdVxK x s = .next t) :
    (∃ k, s.lowestPressed = some k ∧ t = (s.setReg x (keyByte k)).advance) ∨
    (s.lowestPressed = none ∧ t = s.setMode (.awaitingKey x)) := by
  unfold execLdVxK at h
  split at h <;> cases h
  · exact .inl ⟨_, ‹_›, rfl⟩
  · exact .inr ⟨‹_›, rfl⟩

theorem execLdB_next {x : Nibble} (h : execLdB x s = .next t) :
    s.writeFault 3 = none ∧ t = (s.storeBytes s.i.toNat (decimalDigits (s.reg x))).advance := by
  unfold execLdB at h
  split at h <;> cases h
  exact ⟨‹_›, rfl⟩

theorem execStoreRegs_next {x : Nibble} (h : execStoreRegs x s = .next t) :
    s.writeFault (x.toNat + 1) = none ∧ t = (s.storeBytes s.i.toNat (s.readRegs (x.toNat + 1))).advance := by
  unfold execStoreRegs at h
  split at h <;> cases h
  exact ⟨‹_›, rfl⟩

theorem execLoadRegs_next {x : Nibble} (h : execLoadRegs x s = .next t) :
    rangeFault s.i (x.toNat + 1) = none ∧
      t = (s.setRegs 0 (s.readBytes s.i.toNat (x.toNat + 1))).advance := by
  unfold execLoadRegs at h
  split at h <;> cases h
  exact ⟨‹_›, rfl⟩

theorem execDrw_next {x y n : Nibble} (h : execDrw x y n s = .next t) :
    rangeFault s.i n.toNat = none ∧
      t = (((s.setDisplay (drawPixels s.display (s.sprite x y n)).1).setReg vf
        (flagByte (drawPixels s.display (s.sprite x y n)).2)).setRedraw true).advance := by
  unfold execDrw at h
  split at h <;> cases h
  exact ⟨‹_›, rfl⟩

/-- No instruction is refused: each answers a next state or raises a fault of the spec. -/
theorem exec_ne_refused (i : Instr) (s : State) (e : Refusal) : exec i s ≠ .refused e := by
  intro h
  cases i <;> simp only [exec] at h
  case ret => rcases s.pop_cases with ⟨_, hp⟩ | ⟨_, _, _, hp⟩ <;> simp only [execRet, hp] at h <;> cases h
  case call => rcases s.push_cases s.pc with ⟨_, hp⟩ | ⟨_, hp⟩ <;> simp only [execCall, hp] at h <;> cases h
  case skp => unfold execSkp at h; split at h <;> cases h
  case sknp => unfold execSknp at h; split at h <;> cases h
  case ldVxK => unfold execLdVxK at h; split at h <;> cases h
  case ldB => unfold execLdB at h; split at h <;> cases h
  case storeRegs => unfold execStoreRegs at h; split at h <;> cases h
  case loadRegs => unfold execLoadRegs at h; split at h <;> cases h
  case drw => unfold execDrw at h; split at h <;> cases h
  all_goals cases h

/-- What the cycle makes of an instruction: the end of the cycle after its next state, or the fault in `RUN`. -/
theorem settle_exec (i : Instr) (s : State) :
    (∃ t, exec i s = .next t ∧ s.settle (exec i s) = .next t.endCycle) ∨
    (∃ f, exec i s = .fault f ∧ s.settle (exec i s) = .next (s.halt f)) := by
  cases h : exec i s with
  | next t => exact .inl ⟨t, rfl, rfl⟩
  | fault f => exact .inr ⟨f, rfl, rfl⟩
  | refused e => exact absurd h (exec_ne_refused i s e)

end Sys2Proof.Machine
end

