-- ==== Sys2Proof/Laws/Interface.lean ====
section
/-! SUPPORT. The laws of the host's inputs: what filling memory at reset leaves of each byte and of the rest, that it
keeps the canonical form, and everything a tick or a load can do. -/

namespace Sys2Proof.Machine

/-- Filling memory changes memory and nothing else. -/
theorem State.fillMemory_eq (s : State) (l : List Host.Cell) :
    s.fillMemory l = { s with mem := (s.fillMemory l).mem } := by
  induction l generalizing s with
  | nil => rfl
  | cons c rest ih =>
    unfold State.fillMemory
    split
    · exact ih _
    · exact ih s

/-- An address of which no cell is given, or where none may be, keeps its byte. -/
theorem State.byteAt_fillMemory_other (s : State) (l : List Host.Cell) (a : Nat)
    (h : (∀ c ∈ l, c.1 ≠ a) ∨ memSize ≤ a ∨ inFont a = true) : (s.fillMemory l).byteAt a = s.byteAt a := by
  induction l generalizing s with
  | nil => rfl
  | cons c rest ih =>
    have hr : (∀ d ∈ rest, d.1 ≠ a) ∨ memSize ≤ a ∨ inFont a = true :=
      h.imp_left fun hc d hd => hc d (List.mem_cons_of_mem c hd)
    unfold State.fillMemory
    split
    · rename_i hk
      rw [ih _ hr, State.byteAt_storeByte, if_neg]
      rintro rfl
      rcases h with h | h | h
      · exact h c List.mem_cons_self rfl
      · omega
      · rw [hk.2] at h
        cases h
    · exact ih s hr

/-- An address in memory and outside the font region holds the last of its cells. -/
theorem State.byteAt_fillMemory_last (s : State) (l r : List Host.Cell) (a : Nat) (b : Byte) (hr : ∀ c ∈ r, c.1 ≠ a)
    (ha : a < memSize) (hf : inFont a = false) : (s.fillMemory (l ++ (a, b) :: r)).byteAt a = b := by
  induction l generalizing s with
  | nil =>
    show (State.fillMemory s ((a, b) :: r)).byteAt a = b
    unfold State.fillMemory
    rw [if_pos ⟨ha, hf⟩, State.byteAt_fillMemory_other _ r a (.inl hr), State.byteAt_storeByte, if_pos rfl]
  | cons c rest ih =>
    show (State.fillMemory s (c :: (rest ++ (a, b) :: r))).byteAt a = b
    unfold State.fillMemory
    split
    · exact ih _
    · exact ih s

/-- Filling memory keeps the canonical form. -/
theorem State.wf_fillMemory {s : State} (l : List Host.Cell) (h : Memory.wf s.cfg.font s.mem) :
    Memory.wf s.cfg.font (s.fillMemory l).mem := by
  induction l generalizing s with
  | nil => exact h
  | cons c rest ih =>
    unfold State.fillMemory
    split
    · rename_i hk
      exact ih (State.wf_storeByte c.2 hk.1 h)
    · exact ih h

/-- Everything a tick input can do: one timer tick under the independent mode while running, else nothing. -/
theorem State.tickInput_cases (s : State) :
    (s.cfg.tickMode = .independent ∧ s.run = .running ∧ s.tickInput = s.tickTimers) ∨
    ((s.cfg.tickMode = .coupled ∨ ∃ f, s.run = .halted f) ∧ s.tickInput = s) := by
  unfold State.tickInput
  cases s.cfg.tickMode <;> cases s.run <;> simp

/-- Everything a load can do: halt on its check, store its bytes inside memory, or nothing when it is not accepted. -/
theorem State.loadInput_cases (s : State) (bytes : List Byte) (origin : Nat) :
    (s.run = .running ∧ s.started = false ∧
      ((∃ f, loadFault bytes.length origin = some f ∧ s.loadInput bytes origin = s.halt f) ∨
       (0x0A0 ≤ origin ∧ origin + bytes.length ≤ memSize ∧ s.loadInput bytes origin = s.storeBytes origin bytes))) ∨
    ((s.started = true ∨ ∃ f, s.run = .halted f) ∧ s.loadInput bytes origin = s) := by
  unfold State.loadInput
  cases hr : s.run with
  | halted f => exact .inr ⟨.inr ⟨f, rfl⟩, rfl⟩
  | running =>
    cases hs : s.started with
    | true => exact .inr ⟨.inl rfl, rfl⟩
    | false =>
      refine .inl ⟨rfl, rfl, ?_⟩
      cases hf : loadFault bytes.length origin with
      | some f => exact .inl ⟨f, rfl, rfl⟩
      | none =>
        unfold loadFault fontEnd at hf
        split at hf
        · cases hf
        · split at hf
          · cases hf
          · exact .inr ⟨by omega, by omega, rfl⟩

end Sys2Proof.Machine
end

