-- ==== Sys2Proof/Laws/PerInstr.lean ====
section
/-! SUPPORT. Per instruction: its word lies in its own row of the opcode map (spec 30_encoding.md R83): the row's fixed
digits are the word's. -/

namespace Sys2Proof

/-- The fixed digits of the rows with two registers and a sub-case nibble. -/
theorem fixed_txyn (t x y n : Nibble) : (t ++ x ++ y ++ n : Word) &&& 0xF00F = t ++ 0x0#4 ++ 0x0#4 ++ n := by
  refine (BitVec.and_append (x₁ := t ++ x ++ y) (x₂ := 0xF00#12) (y₁ := n) (y₂ := 0xF#4)).trans ?_
  rw [show 0xF00#12 = 0xF#4 ++ 0x0#4 ++ 0x0#4 from rfl, BitVec.and_append, BitVec.and_append, BitVec.and_zero,
    BitVec.and_zero, show 0xF#4 = BitVec.allOnes 4 from rfl, BitVec.and_allOnes, BitVec.and_allOnes]

/-- The fixed digit of the rows with an address. -/
theorem fixed_tnnn (t : Nibble) (nnn : Addr12) : (t ++ nnn : Word) &&& 0xF000 = t ++ 0x000#12 := by
  refine (BitVec.and_append (x₁ := t) (x₂ := 0xF#4) (y₁ := nnn) (y₂ := 0x000#12)).trans ?_
  rw [show 0xF#4 = BitVec.allOnes 4 from rfl, BitVec.and_allOnes, BitVec.and_zero]

/-- The fixed digits of the rows with a register and a sub-case byte. -/
theorem fixed_txkk (t x : Nibble) (kk : Byte) : (t ++ x ++ kk : Word) &&& 0xF0FF = t ++ 0x0#4 ++ kk := by
  refine (BitVec.and_append (x₁ := t ++ x) (x₂ := 0xF0#8) (y₁ := kk) (y₂ := 0xFF#8)).trans ?_
  rw [show 0xF0#8 = 0xF#4 ++ 0x0#4 from rfl, BitVec.and_append, BitVec.and_zero, show 0xF#4 = BitVec.allOnes 4 from rfl,
    show 0xFF#8 = BitVec.allOnes 8 from rfl, BitVec.and_allOnes, BitVec.and_allOnes]

/-- The fixed digit of the rows with a register and an immediate byte. -/
theorem fixed_tx (t x : Nibble) (kk : Byte) : (t ++ x ++ kk : Word) &&& 0xF000 = t ++ 0x000#12 := by
  have h : (t ++ x ++ kk : Word) = t ++ (x ++ kk : Addr12) := by
    apply BitVec.eq_of_toNat_eq
    rw [toNat_txkk, toNat_tnnn]
    have : (x ++ kk : Addr12).toNat = x.toNat * 2 ^ 8 + kk.toNat := toNat_concat x kk
    omega
  rw [h, fixed_tnnn]

/-- The fixed digit of the row with two registers and a literal. -/
theorem fixed_t (t x y n : Nibble) : (t ++ x ++ y ++ n : Word) &&& 0xF000 = t ++ 0x000#12 := by
  have h : (t ++ x ++ y ++ n : Word) = t ++ (x ++ y ++ n : Addr12) := by
    apply BitVec.eq_of_toNat_eq
    rw [toNat_txyn, toNat_tnnn, toNat_xyn]
    omega
  rw [h, fixed_tnnn]

end Sys2Proof

namespace Sys2Proof.Laws

/-- The word of an instruction matches the instruction's row of the opcode map. -/
def InRow.Statement (i : Instr) : Prop := (rowOf i).covers (encode i) = true

/-- A row covers a word whose masked bits are the row's pattern. -/
theorem covers_of_masked {r : OpcodeRow} {op : Word} (h : op &&& r.mask = r.pattern) : r.covers op = true := by
  simp [OpcodeRow.covers, h]

theorem InRow.cls : InRow.Statement .cls := rfl

theorem InRow.ret : InRow.Statement .ret := rfl

theorem InRow.jp (nnn : Addr12) : InRow.Statement (.jp nnn) := covers_of_masked (fixed_tnnn 0x1#4 nnn)

theorem InRow.call (nnn : Addr12) : InRow.Statement (.call nnn) := covers_of_masked (fixed_tnnn 0x2#4 nnn)

theorem InRow.seImm (x : Nibble) (kk : Byte) : InRow.Statement (.seImm x kk) := covers_of_masked (fixed_tx 0x3#4 x kk)

theorem InRow.sneImm (x : Nibble) (kk : Byte) : InRow.Statement (.sneImm x kk) := covers_of_masked (fixed_tx 0x4#4 x kk)

theorem InRow.seReg (x : Nibble) (y : Nibble) : InRow.Statement (.seReg x y) := covers_of_masked (fixed_txyn 0x5#4 x y 0x0#4)

theorem InRow.ldImm (x : Nibble) (kk : Byte) : InRow.Statement (.ldImm x kk) := covers_of_masked (fixed_tx 0x6#4 x kk)

theorem InRow.addImm (x : Nibble) (kk : Byte) : InRow.Statement (.addImm x kk) := covers_of_masked (fixed_tx 0x7#4 x kk)

theorem InRow.ldReg (x : Nibble) (y : Nibble) : InRow.Statement (.ldReg x y) := covers_of_masked (fixed_txyn 0x8#4 x y 0x0#4)

theorem InRow.orReg (x : Nibble) (y : Nibble) : InRow.Statement (.orReg x y) := covers_of_masked (fixed_txyn 0x8#4 x y 0x1#4)

theorem InRow.andReg (x : Nibble) (y : Nibble) : InRow.Statement (.andReg x y) := covers_of_masked (fixed_txyn 0x8#4 x y 0x2#4)

theorem InRow.xorReg (x : Nibble) (y : Nibble) : InRow.Statement (.xorReg x y) := covers_of_masked (fixed_txyn 0x8#4 x y 0x3#4)

theorem InRow.addReg (x : Nibble) (y : Nibble) : InRow.Statement (.addReg x y) := covers_of_masked (fixed_txyn 0x8#4 x y 0x4#4)

theorem InRow.subReg (x : Nibble) (y : Nibble) : InRow.Statement (.subReg x y) := covers_of_masked (fixed_txyn 0x8#4 x y 0x5#4)

theorem InRow.shr (x : Nibble) (y : Nibble) : InRow.Statement (.shr x y) := covers_of_masked (fixed_txyn 0x8#4 x y 0x6#4)

theorem InRow.subnReg (x : Nibble) (y : Nibble) : InRow.Statement (.subnReg x y) := covers_of_masked (fixed_txyn 0x8#4 x y 0x7#4)

theorem InRow.shl (x : Nibble) (y : Nibble) : InRow.Statement (.shl x y) := covers_of_masked (fixed_txyn 0x8#4 x y 0xE#4)

theorem InRow.sneReg (x : Nibble) (y : Nibble) : InRow.Statement (.sneReg x y) := covers_of_masked (fixed_txyn 0x9#4 x y 0x0#4)

theorem InRow.ldI (nnn : Addr12) : InRow.Statement (.ldI nnn) := covers_of_masked (fixed_tnnn 0xA#4 nnn)

theorem InRow.jpV0 (nnn : Addr12) : InRow.Statement (.jpV0 nnn) := covers_of_masked (fixed_tnnn 0xB#4 nnn)

theorem InRow.rnd (x : Nibble) (kk : Byte) : InRow.Statement (.rnd x kk) := covers_of_masked (fixed_tx 0xC#4 x kk)

theorem InRow.drw (x : Nibble) (y : Nibble) (n : Nibble) : InRow.Statement (.drw x y n) := covers_of_masked (fixed_t 0xD#4 x y n)

theorem InRow.skp (x : Nibble) : InRow.Statement (.skp x) := covers_of_masked (fixed_txkk 0xE#4 x 0x9E#8)

theorem InRow.sknp (x : Nibble) : InRow.Statement (.sknp x) := covers_of_masked (fixed_txkk 0xE#4 x 0xA1#8)

theorem InRow.ldVxDt (x : Nibble) : InRow.Statement (.ldVxDt x) := covers_of_masked (fixed_txkk 0xF#4 x 0x07#8)

theorem InRow.ldVxK (x : Nibble) : InRow.Statement (.ldVxK x) := covers_of_masked (fixed_txkk 0xF#4 x 0x0A#8)

theorem InRow.ldDtVx (x : Nibble) : InRow.Statement (.ldDtVx x) := covers_of_masked (fixed_txkk 0xF#4 x 0x15#8)

theorem InRow.ldStVx (x : Nibble) : InRow.Statement (.ldStVx x) := covers_of_masked (fixed_txkk 0xF#4 x 0x18#8)

theorem InRow.addI (x : Nibble) : InRow.Statement (.addI x) := covers_of_masked (fixed_txkk 0xF#4 x 0x1E#8)

theorem InRow.ldF (x : Nibble) : InRow.Statement (.ldF x) := covers_of_masked (fixed_txkk 0xF#4 x 0x29#8)

theorem InRow.ldB (x : Nibble) : InRow.Statement (.ldB x) := covers_of_masked (fixed_txkk 0xF#4 x 0x33#8)

theorem InRow.storeRegs (x : Nibble) : InRow.Statement (.storeRegs x) := covers_of_masked (fixed_txkk 0xF#4 x 0x55#8)

theorem InRow.loadRegs (x : Nibble) : InRow.Statement (.loadRegs x) := covers_of_masked (fixed_txkk 0xF#4 x 0x65#8)

end Sys2Proof.Laws
end

