-- ==== Sys2Proof/Tests/Slice0.lean ====
section
/-! SUPPORT. The model's own tests: the refusal of ill-formed fields, words written out bit by bit from the spec's
encodings, one step on a small state with a result from spec/95_test_vectors.md (its vector is named in each comment), and
a witness for every statement that has hypotheses. -/

namespace Sys2Proof.Tests

open Sys2Proof.Machine

/-! ### Well-formedness -/

/-- Fields of the word 0x1234. -/
def goodFields : Fields := { t := 1, x := 2, y := 3, n := 4, kk := 0x34, nnn := 0x234 }

theorem test_fields_of_word_are_wellFormed : goodFields.wellFormed = true ∧ fieldsOf 0x1234 = goodFields := by decide

/-- Each check refuses a term that breaks it alone. -/
theorem test_byteAgrees_refuses :
    ({ goodFields with kk := 0x35 } : Fields).byteAgrees = false ∧
    ({ goodFields with kk := 0x35 } : Fields).addressAgrees = true ∧
    ({ goodFields with kk := 0x35 } : Fields).wellFormed = false := by decide

theorem test_addressAgrees_refuses :
    ({ goodFields with nnn := 0x334 } : Fields).byteAgrees = true ∧
    ({ goodFields with nnn := 0x334 } : Fields).addressAgrees = false ∧
    ({ goodFields with nnn := 0x334 } : Fields).wellFormed = false := by decide

/-! ### Decoding: words written bit by bit from 30_encoding.md R81, R83 and R84 -/

theorem test_decode_family_0 :
    decode 0b0000_0000_1110_0000 = .instr .cls ∧ decode 0b0000_0000_1110_1110 = .instr .ret ∧
    decode 0b0000_0000_0000_0000 = .unrecognised 0x0000 := by decide

theorem test_decode_addresses :
    decode 0b0001_1010_1011_1100 = .instr (.jp 0xABC) ∧ decode 0b0010_0011_0000_0001 = .instr (.call 0x301) ∧
    decode 0b1010_0010_1111_0000 = .instr (.ldI 0x2F0) ∧ decode 0b1011_1111_1111_1110 = .instr (.jpV0 0xFFE) := by decide

theorem test_decode_immediates :
    decode 0b0011_1111_0000_0001 = .instr (.seImm 0xF 0x01) ∧ decode 0b0100_0011_1000_0000 = .instr (.sneImm 3 0x80) ∧
    decode 0b0110_1010_0100_0010 = .instr (.ldImm 0xA 0x42) ∧ decode 0b0111_0001_1111_1110 = .instr (.addImm 1 0xFE) ∧
    decode 0b1100_0011_1111_0000 = .instr (.rnd 3 0xF0) := by decide

theorem test_decode_registers :
    decode 0b0101_0001_0010_0000 = .instr (.seReg 1 2) ∧ decode 0b1001_1110_0111_0000 = .instr (.sneReg 0xE 7) ∧
    decode 0b1000_0001_0010_0000 = .instr (.ldReg 1 2) ∧ decode 0b1000_0001_0010_0001 = .instr (.orReg 1 2) ∧
    decode 0b1000_0001_0010_0010 = .instr (.andReg 1 2) ∧ decode 0b1000_0001_0010_0011 = .instr (.xorReg 1 2) := by decide

theorem test_decode_flag_operations :
    decode 0b1000_0001_0010_0100 = .instr (.addReg 1 2) ∧ decode 0b1000_0001_0010_0101 = .instr (.subReg 1 2) ∧
    decode 0b1000_0001_0010_0110 = .instr (.shr 1 2) ∧ decode 0b1000_0001_0010_0111 = .instr (.subnReg 1 2) ∧
    decode 0b1000_0001_0010_1110 = .instr (.shl 1 2) := by decide

theorem test_decode_draw_and_keys :
    decode 0b1101_0001_0010_0011 = .instr (.drw 1 2 3) ∧ decode 0b1110_1011_1001_1110 = .instr (.skp 0xB) ∧
    decode 0b1110_1011_1010_0001 = .instr (.sknp 0xB) := by decide

theorem test_decode_family_F :
    decode 0b1111_0101_0000_0111 = .instr (.ldVxDt 5) ∧ decode 0b1111_0101_0000_1010 = .instr (.ldVxK 5) ∧
    decode 0b1111_0101_0001_0101 = .instr (.ldDtVx 5) ∧ decode 0b1111_0101_0001_1000 = .instr (.ldStVx 5) ∧
    decode 0b1111_0101_0001_1110 = .instr (.addI 5) ∧ decode 0b1111_0101_0010_1001 = .instr (.ldF 5) ∧
    decode 0b1111_0101_0011_0011 = .instr (.ldB 5) ∧ decode 0b1111_0101_0101_0101 = .instr (.storeRegs 5) ∧
    decode 0b1111_0101_0110_0101 = .instr (.loadRegs 5) := by decide

/-- 30_encoding.md R86, and the vectors X1 to X4. -/
theorem test_decode_unrecognised :
    decode 0x0123 = .unrecognised 0x0123 ∧ decode 0x5121 = .unrecognised 0x5121 ∧ decode 0x9121 = .unrecognised 0x9121 ∧
    decode 0x8128 = .unrecognised 0x8128 ∧ decode 0x812F = .unrecognised 0x812F ∧ decode 0xE1FF = .unrecognised 0xE1FF ∧
    decode 0xF1FF = .unrecognised 0xF1FF := by decide

/-- 20_memory.md R61: the first byte is the high one. -/
theorem test_decode_bytes :
    (match decodeBytes [0x6A, 0x42, 0x99] with | .ok r => some r | .error _ => none)
      = some (.instr (.ldImm 0xA 0x42), [0x99]) ∧
    (match decodeBytes [0x6A] with | .ok r => some r | .error _ => none) = none ∧
    wordBytes 0x6A42 = [0x6A, 0x42] := by decide

theorem test_decodeTableWord :
    decodeTableWord 16 0x00EE = some .ret ∧ decodeTableWord 16 0xD123 = some (.drw 1 2 3) ∧
    decodeTableWord 16 0x8128 = none := by decide

/-! ### Small states, and what a step shows of them -/

/-- A state with registers set. -/
def regs (s : State) (l : List (Nibble × Byte)) : State := l.foldl (fun t p => t.setReg p.1 p.2) s

/-- A state with bytes of memory set. -/
def bytes (s : State) (a : Nat) (l : List Byte) : State := s.storeBytes a l

/-- A state with pixels on. -/
def lit (s : State) (l : List (Fin 64 × Fin 32)) : State :=
  { s with display := l.foldl (fun d p => Display.put d p.1 p.2 true) s.display }

/-- A state with keys pressed. -/
def pressed (s : State) (l : List (Fin 16)) : State := l.foldl (fun t k => t.setKey k true) s

/-- One part of what a result's next state holds. -/
def after {α : Type} (r : Result) (f : State → α) : Option α :=
  match r with
  | .next t => some (f t)
  | .fault _ => none
  | .refused _ => none

/-- The fault a result stops with. -/
def faultOf (r : Result) : Option Fault :=
  match r with
  | .fault f => some f
  | .next _ => none
  | .refused _ => none

/-- One part of the state after the cycle that runs the word `w` at PC. -/
def run {α : Type} (s : State) (w : Nat) (f : State → α) : Option α := after (step (s.withFetchWord 16 w)) f

/-- The reset state with another PC. -/
def atPc (a : Word) : State := State.reset.setPc a

/-- The reset state with another `I`. -/
def atI (a : Word) : State := State.reset.setI a

/-- The parameters with one changed. -/
def withCfg (s : State) (f : Params → Params) : State := { s with cfg := f s.cfg }

/-- Values for the reset input. -/
def anyValues : InitValues where
  mem := []
  v := Vector.replicate 16 0xFF
  i := 0xFFFF
  stack := Vector.replicate 16 0
  sp := 0
  keys := Vector.replicate 16 true
  mode := .free
  display := Display.blank
  redraw := true
  run := .running

/-! ### The cycle -/

/-- X5, X6, X10: the fetch past the end of memory; a faulting cycle does not tick. -/
theorem test_fetch_past_end :
    run (atPc 0xFFE) 0x0000 State.pc = some 0x1000 ∧
    after (step (atPc 0x1000)) State.run = some (.halted (.addressOutOfRange 0x1000)) ∧
    after (step ((atPc 0x1000).setDt 5)) State.dt = some 5 ∧
    after (step (atPc 0xFFF)) (fun t => (t.run, t.pc)) = some (.halted (.addressOutOfRange 0x1000), 0xFFF) := by decide

/-- X7, X8: an odd PC under both policies. -/
theorem test_fetch_odd_pc :
    run (atPc 0x201) 0x6107 (fun t => (t.reg 1, t.pc)) = some (0x07, 0x203) ∧
    run (withCfg (atPc 0x201) fun c => { c with oddPc := .fault }) 0x6107 State.run
      = some (.halted (.misalignedFetch 0x201)) := by decide

/-- X1, X2: unrecognised words. -/
theorem test_unrecognised_words :
    run State.reset 0x0123 State.pc = some 0x202 ∧ run State.reset 0x5121 State.pc = some 0x202 := by decide

/-- X11: a halted block does nothing. -/
theorem test_halted_cycle :
    after (step ((State.reset.halt .quit).setDt 5)) (fun t => (t.dt, t.pc, t.run))
      = some (5, 0x200, .halted .quit) := by decide

/-- T9: both timers tick, whatever the instruction. -/
theorem test_tick_both : run ((State.reset.setDt 3).setSt 7) 0x0000 (fun t => (t.dt, t.st)) = some (2, 6) := by decide

/-! ### Control transfer -/

/-- W9, B6, B7. -/
theorem test_jp :
    run State.reset 0x1ABC State.pc = some 0xABC ∧ run State.reset 0x1000 State.pc = some 0x000 ∧
    run State.reset 0x1200 State.pc = some 0x200 := by decide

/-- B3: the sixteenth entry. -/
theorem test_call_fills_stack :
    run ({ atPc 0x300 with sp := 15 } : State) 0x2400 (fun t => (t.stack[15], t.sp, t.pc))
      = some (0x300, 16, 0x400) := by decide

/-- B2. -/
theorem test_call_overflow :
    run ({ atPc 0x300 with sp := 16 } : State) 0x2400 (fun t => (t.run, t.sp, t.pc))
      = some (.halted (.stackOverflow 0x300), 16, 0x300) := by decide

/-- B4: the return goes past the call, and the entry stays. -/
theorem test_ret :
    run ({ atPc 0x400 with sp := 16, stack := State.reset.stack.set 15 0x300 } : State) 0x00EE
      (fun t => (t.sp, t.pc, t.stack[15])) = some (15, 0x302, 0x300) := by decide

/-- B1. -/
theorem test_ret_underflow :
    run (atPc 0x250) 0x00EE (fun t => (t.run, t.sp, t.pc)) = some (.halted (.stackUnderflow 0x250), 0, 0x250) := by decide

/-- B11, and the same with an unequal register. -/
theorem test_seImm :
    run (regs State.reset [(0xF, 0x01)]) 0x3F01 State.pc = some 0x204 ∧
    run State.reset 0x3F01 State.pc = some 0x202 := by decide

/-- B12, and the same with an unequal register. -/
theorem test_sneImm :
    run State.reset 0x4300 State.pc = some 0x202 ∧
    run (regs State.reset [(3, 1)]) 0x4300 State.pc = some 0x204 := by decide

/-- B13, B15. -/
theorem test_seReg :
    run (regs State.reset [(4, 0x77)]) 0x5440 State.pc = some 0x204 ∧
    run (regs State.reset [(1, 1), (2, 2)]) 0x5120 State.pc = some 0x202 := by decide

/-- B14, and unequal registers by 41_control_flow.md R127. -/
theorem test_sneReg :
    run (regs State.reset [(4, 0x77)]) 0x9440 State.pc = some 0x202 ∧
    run (regs State.reset [(1, 1), (2, 2)]) 0x9120 State.pc = some 0x204 := by decide

/-- X9: a skip past the last word. -/
theorem test_skip_at_end : run (atPc 0xFFC) 0x3000 State.pc = some 0x1000 := by decide

/-- B8, B9. -/
theorem test_jpV0 :
    run (regs State.reset [(0, 0xFF)]) 0xBFFF State.pc = some 0x10FE ∧
    run (regs State.reset [(0, 0x01)]) 0xB300 State.pc = some 0x301 := by decide

/-! ### Register arithmetic and logic -/

/-- W10. -/
theorem test_ldImm : run State.reset 0x6A42 (fun t => (t.reg 0xA, t.pc)) = some (0x42, 0x202) := by decide

/-- A1, A2: no flag, and VF as a plain destination. -/
theorem test_addImm :
    run (regs State.reset [(1, 0xFF), (0xF, 0x55)]) 0x7101 (fun t => (t.reg 1, t.reg vf)) = some (0x00, 0x55) ∧
    run (regs State.reset [(0xF, 0x01)]) 0x7FFF (fun t => t.reg vf) = some 0x00 := by decide

/-- A24. -/
theorem test_ldReg : run (regs State.reset [(2, 0x99)]) 0x8F20 (fun t => t.reg vf) = some 0x99 := by decide

/-- A22. -/
theorem test_orReg :
    run (regs State.reset [(1, 0x0F), (2, 0xF0), (0xF, 1)]) 0x8121 (fun t => (t.reg 1, t.reg vf)) = some (0xFF, 1) := by
  decide

/-- A22, and the example of 42_alu.md R146. -/
theorem test_andReg :
    run (regs State.reset [(1, 0x0F), (2, 0xF0), (0xF, 1)]) 0x8122 (fun t => (t.reg 1, t.reg vf)) = some (0x00, 1) ∧
    run (regs State.reset [(1, 0x3C), (2, 0x0F)]) 0x8122 (fun t => t.reg 1) = some 0x0C := by decide

/-- A23, and the example of 42_alu.md R147. -/
theorem test_xorReg :
    run (regs State.reset [(0xF, 0xAB)]) 0x8FF3 (fun t => t.reg vf) = some 0x00 ∧
    run (regs State.reset [(1, 0xFF), (2, 0x0F)]) 0x8123 (fun t => t.reg 1) = some 0xF0 := by decide

/-- A3, A4: a sum of 256 and of 255. -/
theorem test_addReg :
    run (regs State.reset [(1, 0xFF), (2, 0x01)]) 0x8124 (fun t => (t.reg 1, t.reg vf)) = some (0x00, 1) ∧
    run (regs State.reset [(1, 0xFF), (2, 0x00)]) 0x8124 (fun t => (t.reg 1, t.reg vf)) = some (0xFF, 0) := by decide

/-- A5, A6: the flag overwrites a sum in VF. -/
theorem test_addReg_vf :
    run (regs State.reset [(0xF, 0xFF), (1, 0x01)]) 0x8F14 (fun t => t.reg vf) = some 1 ∧
    run (regs State.reset [(0xF, 0x01), (1, 0x01)]) 0x8F14 (fun t => t.reg vf) = some 0 := by decide

/-- W2, W2b, W2c. -/
theorem test_subReg :
    run (regs State.reset [(1, 0x0A), (2, 0x03)]) 0x8125 (fun t => (t.reg 1, t.reg vf)) = some (0x07, 1) ∧
    run (regs State.reset [(1, 0x03), (2, 0x0A)]) 0x8125 (fun t => (t.reg 1, t.reg vf)) = some (0xF9, 0) ∧
    run (regs State.reset [(1, 0x33), (2, 0x33)]) 0x8125 (fun t => (t.reg 1, t.reg vf)) = some (0x00, 0) := by decide

/-- A11: the flag overwrites a difference in VF. -/
theorem test_subReg_vf :
    run (regs State.reset [(0xF, 0x10), (2, 0x01)]) 0x8F25 (fun t => t.reg vf) = some 1 := by decide

/-- A12, A13, and the subtraction of P4. -/
theorem test_subnReg :
    run (regs State.reset [(1, 0x01)]) 0x8127 (fun t => (t.reg 1, t.reg vf)) = some (0xFF, 0) ∧
    run (regs State.reset [(1, 0x05), (2, 0x05)]) 0x8127 (fun t => (t.reg 1, t.reg vf)) = some (0x00, 0) ∧
    run (regs State.reset [(3, 0x05), (1, 0x20)]) 0x8317 (fun t => (t.reg 3, t.reg vf)) = some (0x1B, 1) := by decide

/-- A15, A16: the source under both policies. -/
theorem test_shr :
    run (regs State.reset [(1, 0x80), (2, 0x03)]) 0x8126 (fun t => (t.reg 1, t.reg vf)) = some (0x40, 0) ∧
    run (withCfg (regs State.reset [(1, 0x80), (2, 0x03)]) fun c => { c with shiftUsesVy := true }) 0x8126
      (fun t => (t.reg 1, t.reg vf)) = some (0x01, 1) := by decide

/-- A17, A18: VF as source and destination. -/
theorem test_shr_vf :
    run (regs State.reset [(0xF, 0x03)]) 0x8F06 (fun t => t.reg vf) = some 1 ∧
    run (regs State.reset [(0xF, 0x02)]) 0x8F06 (fun t => t.reg vf) = some 0 := by decide

/-- A19, A20, and P4's shift under `P_SHIFT_USES_VY = true`. -/
theorem test_shl :
    run (regs State.reset [(1, 0x80)]) 0x810E (fun t => (t.reg 1, t.reg vf)) = some (0x00, 1) ∧
    run (regs State.reset [(1, 0x7F)]) 0x810E (fun t => (t.reg 1, t.reg vf)) = some (0xFE, 0) ∧
    run (withCfg (regs State.reset [(0, 0x10), (4, 0x81)]) fun c => { c with shiftUsesVy := true }) 0x840E
      (fun t => (t.reg 4, t.reg vf)) = some (0x20, 0) := by decide

/-- A21: VF as source and destination. -/
theorem test_shl_vf : run (regs State.reset [(0xF, 0x81)]) 0x8FFE (fun t => t.reg vf) = some 1 := by decide

/-- A26: a mask of zero, and the oracle is drawn from all the same. -/
theorem test_rnd :
    after (exec (.rnd 3 0x00) State.reset) (fun t => (t.reg 3, t.draws, t.pc)) = some (0x00, 1, 0x202) := by
  simp [after, exec, execRnd, State.reset]

/-! ### Index register and memory transfer -/

/-- M1, and the example of 43_index_memory.md R171. -/
theorem test_ldI :
    run (atI 0x123) 0xA000 State.i = some 0x000 ∧ run State.reset 0xA2F0 State.i = some 0x2F0 := by decide

/-- M2, M3: no flag, no fault, 16 bits. -/
theorem test_addI :
    run (regs (atI 0xFFFF) [(1, 1), (0xF, 7)]) 0xF11E (fun t => (t.i, t.reg vf)) = some (0x0000, 7) ∧
    run (regs (atI 0x0FFF) [(1, 1)]) 0xF11E (fun t => (t.i, t.run)) = some (0x1000, .running) := by decide

/-- M4, M5: the value is not masked; another base. -/
theorem test_ldF :
    run (regs State.reset [(1, 0x0F)]) 0xF129 State.i = some 0x09B ∧
    run (regs State.reset [(1, 0xFF)]) 0xF129 State.i = some 0x54B ∧
    run (withCfg (regs State.reset [(1, 0x0F)]) fun c => { c with fx29Base := 0 }) 0xF129 State.i = some 0x04B := by decide

/-- W7, M6, M7. -/
theorem test_ldB :
    run (regs (atI 0x400) [(7, 0xEA)]) 0xF733 (fun t => (t.readBytes 0x400 3, t.i)) = some ([2, 3, 4], 0x400) ∧
    run (regs (atI 0x300) [(1, 255)]) 0xF133 (fun t => t.readBytes 0x300 3) = some [2, 5, 5] ∧
    run (regs (atI 0xFFD) [(1, 123)]) 0xF133 (fun t => t.readBytes 0xFFD 3) = some [1, 2, 3] := by decide

/-- M8, M9, M10. -/
theorem test_ldB_checks :
    run (regs (atI 0xFFE) [(1, 123)]) 0xF133 (fun t => (t.run, t.byteAt 0xFFE, t.pc))
      = some (.halted (.addressOutOfRange 0x1000), 0, 0x200) ∧
    run (withCfg (regs (atI 0x04F) [(1, 123)]) fun c => { c with fontWrite := .fault }) 0xF133
      (fun t => (t.run, t.byteAt 0x04F)) = some (.halted (.fontWrite 0x050), 0) ∧
    run (atI 0x04F) 0xF133 (fun t => t.readBytes 0x04F 4) = some [0, 0, 0, 0x90] := by decide

/-- M11: VF is stored last, at 0xFFF. -/
theorem test_storeRegs :
    run (regs (atI 0xFF0) [(0, 0x10), (1, 1), (0xE, 14), (0xF, 15)]) 0xFF55
      (fun t => (t.byteAt 0xFF0, t.byteAt 0xFF1, t.byteAt 0xFFE, t.byteAt 0xFFF, t.i))
      = some (0x10, 1, 14, 15, 0xFF0) := by decide

/-- M12. -/
theorem test_storeRegs_range :
    run (atI 0xFF1) 0xFF55 State.run = some (.halted (.addressOutOfRange 0x1000)) := by decide

/-- M14, M15. -/
theorem test_loadRegs :
    run (bytes (atI 0x300) 0x300 [0x10, 0x11, 0x12, 0x13]) 0xF265
      (fun t => (t.reg 0, t.reg 1, t.reg 2, t.reg 3, t.i)) = some (0x10, 0x11, 0x12, 0x00, 0x300) ∧
    run (atI 0x050) 0xF065 (fun t => t.reg 0) = some 0xF0 := by decide

/-- M13. -/
theorem test_loadRegs_range :
    run (atI 0x1234) 0xF065 State.run = some (.halted (.addressOutOfRange 0x1234)) := by decide

/-! ### Timers -/

/-- T4, T5: the value before the tick. -/
theorem test_ldVxDt :
    run (State.reset.setDt 0x20) 0xF507 (fun t => (t.reg 5, t.dt)) = some (0x20, 0x1F) ∧
    run State.reset 0xF507 (fun t => (t.reg 5, t.dt)) = some (0x00, 0x00) := by decide

/-- T1, T3. -/
theorem test_ldDtVx :
    run (regs State.reset [(0, 5)]) 0xF015 State.dt = some 4 ∧
    run (withCfg (regs State.reset [(0, 5)]) fun c => { c with tickMode := .independent }) 0xF015
      (fun t => (t.dt, t.tickInput.dt)) = some (5, 4) := by decide

/-- T6, T7. -/
theorem test_ldStVx :
    run (regs State.reset [(1, 1)]) 0xF118 (fun t => (t.st, t.toneActive)) = some (0, false) ∧
    run (regs State.reset [(1, 2)]) 0xF118 (fun t => (t.st, t.toneActive)) = some (1, true) := by decide

/-! ### Keypad -/

/-- K1, K2. -/
theorem test_skp :
    run (regs (pressed (atPc 0x220) [5]) [(0, 5)]) 0xE09E State.pc = some 0x224 ∧
    run (regs (atPc 0x220) [(0, 5)]) 0xE09E State.pc = some 0x222 := by decide

/-- K4, K5: a key index above 15. -/
theorem test_skp_index :
    run (regs (atPc 0x220) [(0, 0x10)]) 0xE09E State.run = some (.halted (.keyIndexOutOfRange 0x10)) ∧
    run (withCfg (regs (pressed (atPc 0x220) [0]) [(0, 0x10)]) fun c => { c with keyIndex := .mask }) 0xE09E State.pc
      = some 0x224 := by decide

/-- K3. -/
theorem test_sknp : run (regs (pressed (atPc 0x220) [5]) [(0, 5)]) 0xE0A1 State.pc = some 0x222 := by decide

/-- K6. -/
theorem test_sknp_index :
    run (withCfg (regs (atPc 0x220) [(0, 0x10)]) fun c => { c with keyIndex := .notPressed }) 0xE0A1 State.pc
      = some 0x224 := by decide

/-- K7, K8: a held key completes the wait, the lowest first. -/
theorem test_ldVxK :
    run (pressed (regs (atPc 0x240) [(3, 9)]) [0]) 0xF30A (fun t => (t.reg 3, t.pc, t.mode)) = some (0, 0x242, .free) ∧
    run (pressed (atPc 0x240) [7, 2]) 0xF30A (fun t => (t.reg 3, t.pc)) = some (2, 0x242) := by decide

/-- K9: it suspends, and the timer ticks. -/
theorem test_ldVxK_waits :
    run ((atPc 0x240).setDt 2) 0xF30A (fun t => (t.mode, t.pc, t.dt)) = some (.awaitingKey 3, 0x240, 1) := by decide

/-- K11, and the pending wait of K10. -/
theorem test_pending_wait :
    after (step (pressed ((atPc 0x240).setMode (.awaitingKey 0xF)) [0xE])) (fun t => (t.reg vf, t.mode, t.pc))
      = some (0x0E, .free, 0x242) ∧
    after (step (((atPc 0x240).setMode (.awaitingKey 3)).setDt 1)) (fun t => (t.mode, t.pc, t.dt))
      = some (.awaitingKey 3, 0x240, 0) := by decide

/-! ### Display -/

/-- The pixels that are on among some of a state. -/
def onAmong (l : List (Fin 64 × Fin 32)) (t : State) : List (Fin 64 × Fin 32) := l.filter fun p => t.pixel p.1 p.2

/-- D11. -/
theorem test_cls :
    run (regs (lit State.reset [(5, 5)]) [(0xF, 0x33)]) 0x00E0 (fun t => (t.pixel 5 5, t.redraw, t.reg vf))
      = some (false, true, 0x33) := by decide

/-- D1, D2: the right edge under both policies. -/
theorem test_drw_right_edge :
    run (bytes (regs (atI 0x300) [(0, 60)]) 0x300 [0xFF]) 0xD011
      (fun t => (onAmong [(59, 0), (60, 0), (63, 0), (0, 0), (3, 0), (0, 1)] t, t.reg vf, t.redraw))
      = some ([(60, 0), (63, 0)], 0, true) ∧
    run (withCfg (bytes (regs (atI 0x300) [(0, 60)]) 0x300 [0xFF]) fun c => { c with spriteEdge := .wrap }) 0xD011
      (fun t => (onAmong [(59, 0), (60, 0), (63, 0), (0, 0), (3, 0), (4, 0)] t, t.reg vf))
      = some ([(60, 0), (63, 0), (0, 0), (3, 0)], 0) := by decide

/-- D8: a collision on one pixel, and another turned on; D9: the origin is the old VF. -/
theorem test_drw_collision :
    run (bytes (lit (atI 0x300) [(0, 0)]) 0x300 [0xC0]) 0xD011
      (fun t => (t.pixel 0 0, t.pixel 1 0, t.reg vf)) = some (false, true, 1) ∧
    run (bytes (regs (atI 0x300) [(0xF, 5)]) 0x300 [0x80]) 0xDFF1
      (fun t => (t.pixel 5 5, t.reg vf)) = some (true, 0) := by decide

/-! ### Host inputs -/

/-- L2, L3, L4, L5 (with one byte too many at 0xFFF). -/
theorem test_load :
    after (State.reset.accept (.load [7] (some 0x09F))) State.run = some (.halted (.loadOverlapsFont 0x09F)) ∧
    after (State.reset.accept (.load [7] (some 0x0A0))) (fun t => (t.byteAt 0x0A0, t.run)) = some (7, .running) ∧
    after (State.reset.accept (.load [7, 8] (some 0xFFF))) (fun t => (t.run, t.byteAt 0xFFF))
      = some (.halted (.romTooLarge 2), 0) := by decide

/-- 70_reset_and_hazards.md R284: the default origin is 0x200, and PC stays. -/
theorem test_load_default_origin :
    after (State.reset.accept (.load [0x6A, 0x42] none)) (fun t => (t.readBytes 0x1FF 4, t.pc))
      = some ([0, 0x6A, 0x42, 0], 0x200) := by decide

/-- L6: no load once a cycle has run. -/
theorem test_load_late :
    after (State.reset.acceptAll [.cycle, .load [7] (some 0x300)]) (fun t => (t.byteAt 0x300, t.pc)) = some (0, 0x202) := by decide

/-- L7, L8, K12. -/
theorem test_host_events :
    after ((State.reset.setRedraw true).accept .consumeRedraw) State.redraw = some false ∧
    after (State.reset.accept .quit) (fun t => (t.run, t.pc)) = some (.halted .quit, 0x200) ∧
    after (((State.reset.setMode (.awaitingKey 3)).halt .quit).accept (.keyEvent 1 true)) (fun t => (t.key 1, t.mode))
      = some (true, .awaitingKey 3) := by decide

/-- L9: reset from a halted state. -/
theorem test_reset_input :
    after ((bytes (State.reset.halt (.stackOverflow 0x200)) 0x300 [7]).accept (.reset anyValues))
      (fun t => (t.run, t.pc, t.sp, t.byteAt 0x300, t.byteAt 0x050)) = some (.running, 0x200, 0, 0, 0xF0) := by decide

/-! ### Witnesses: for every statement with hypotheses, states and operands that meet them, at the boundaries of each
clause -/

theorem witness_EncodeInvertsDecode :
    decode 0xD12F = .instr (.drw 1 2 0xF) ∧ decode 0x8FFE = .instr (.shl 0xF 0xF) ∧ decode 0x00EE = .instr .ret := by
  decide

theorem witness_DecoderIsTheOpcodeMap :
    rowOf .cls ∈ opcodeRows ∧ (rowOf .cls).covers 0x00E0 = true ∧ (rowOf .ret).covers 0x00E0 = false ∧
    decode 0x9120 = .instr (.sneReg 1 2) ∧
    decode 0x9121 = .unrecognised 0x9121 ∧ (∀ r ∈ opcodeRows, r.covers 0x9121 = false) := by decide

theorem witness_UnusedEncodingsAreUnrecognised :
    (0x0E1#12 ≠ 0x0E0 ∧ 0x0E1#12 ≠ 0x0EE) ∧ (0x1#4 ≠ 0 ∧ 0xF#4 ≠ 0) ∧
    (0x8#4 ∈ [0x8#4, 0x9#4, 0xA#4, 0xB#4, 0xC#4, 0xD#4, 0xF#4] ∧ 0xF#4 ∈ [0x8#4, 0x9#4, 0xA#4, 0xB#4, 0xC#4, 0xD#4, 0xF#4]) ∧
    (0x9F#8 ≠ 0x9E ∧ 0x9F#8 ≠ 0xA1) ∧
    0x66#8 ∉ [0x07#8, 0x0A#8, 0x15#8, 0x18#8, 0x1E#8, 0x29#8, 0x33#8, 0x55#8, 0x65#8] := by decide

/-- A state ready at the last address an instruction can have. -/
def lastWord : State := atPc 0xFFE

/-- The same under the odd-PC fault policy. -/
def lastWordStrict : State := withCfg lastWord fun c => { c with oddPc := .fault }

theorem witness_StepRunsTheDecodedInstruction :
    lastWordStrict.run = .running ∧ lastWordStrict.mode = .free ∧ lastWordStrict.pc.toNat ≤ 0xFFE ∧
    (lastWordStrict.cfg.oddPc = .fault ∧ lastWordStrict.pc.toNat % 2 = 0) ∧
    decode (joinBytes ((bytes lastWordStrict 0xFFE [0x00, 0xE0]).byteAt 0xFFE)
      ((bytes lastWordStrict 0xFFE [0x00, 0xE0]).byteAt 0xFFF)) = .instr .cls ∧
    (after (exec .cls lastWordStrict) State.pc).isSome = true ∧ (faultOf (exec .ret lastWordStrict)).isSome = true := by
  decide

/-- The word a fetch answers. -/
def fetched (s : State) : Option Word :=
  match s.fetch with
  | .ok op => some op
  | .error _ => none

theorem witness_UnrecognisedWordOnlyAdvancesPc :
    lastWord.ready ∧ lastWord.fetch = .ok 0x0000 ∧ decode 0x0000 = .unrecognised 0x0000 :=
  ⟨⟨rfl, rfl⟩, rfl, rfl⟩

theorem witness_CycleEndTicksOnlyWhenCoupled :
    State.reset.cfg.tickMode = .coupled ∧
    (withCfg State.reset fun c => { c with tickMode := .independent }).cfg.tickMode = .independent := by decide

theorem witness_FetchFaultsHaltTheBlock :
    ((atPc 0x1000).ready ∧ 0xFFF < (atPc 0x1000).pc.toNat) ∧ ((atPc 0xFFFF).ready ∧ 0xFFF < (atPc 0xFFFF).pc.toNat) ∧
    ((atPc 0xFFF).ready ∧ (atPc 0xFFF).pc.toNat = 0xFFF) ∧
    ((withCfg (atPc 0xFFD) fun c => { c with oddPc := .fault }).ready ∧
      (withCfg (atPc 0xFFD) fun c => { c with oddPc := .fault }).pc.toNat % 2 = 1) :=
  ⟨⟨⟨rfl, rfl⟩, by decide⟩, ⟨⟨rfl, rfl⟩, by decide⟩, ⟨⟨rfl, rfl⟩, by decide⟩, ⟨⟨rfl, rfl⟩, by decide⟩⟩

theorem witness_HaltingCycleChangesOnlyRun :
    State.reset.run = .running ∧
    run State.reset 0x00EE (fun t => (t.run, t.pc, t.dt)) = some (.halted (.stackUnderflow 0x200), 0x200, 0) := by decide

theorem witness_HaltedBlockStaysHalted :
    (State.reset.halt (.stackOverflow 0x200)).run = .halted (.stackOverflow 0x200) ∧
    Input.cycle ≠ .reset anyValues ∧ Input.quit ≠ .reset anyValues ∧
    after ((State.reset.halt (.stackOverflow 0x200)).accept .cycle) State.run = some (.halted (.stackOverflow 0x200)) ∧
    after ((State.reset.halt (.stackOverflow 0x200)).accept .quit) State.run = some (.halted .quit) := by decide

theorem witness_StoredWordIsFetchedNext :
    lastWordStrict.pc.toNat ≤ 0xFFE ∧ lastWordStrict.cfg.oddPc = .fault ∧ lastWordStrict.pc.toNat % 2 = 0 ∧
    fetched (bytes lastWordStrict 0xFFE (wordBytes 0x6A42)) = some 0x6A42 ∧ (atPc 0x001).pc.toNat ≤ 0xFFE ∧
    fetched (bytes (atPc 0x001) 0x001 (wordBytes 0x6A42)) = some 0x6A42 := by decide

/-- A block waiting at its Fx0A, with one call on the stack. -/
def waiting : State :=
  { (State.reset.withFetchWord 16 0xF50A).setMode (.awaitingKey 5) with sp := 1, stack := State.reset.stack.set 0 0xFFE }

theorem witness_OnlyTheKeyWaitSuspends :
    waiting.run = .running ∧ waiting.mode = .awaitingKey 5 ∧ (∀ k, waiting.key k = false) ∧
    after (step waiting) State.mode = some (.awaitingKey 5) ∧
    run State.reset 0xF50A (fun t => (t.mode, t.pc)) = some (.awaitingKey 5, 0x200) ∧
    fetched (State.reset.withFetchWord 16 0xF50A) = some 0xF50A ∧ decode 0xF50A = .instr (.ldVxK 5) := by decide

/-- The invariant holds of a block that waits, with memory listed and a stack entry at its bound. -/
theorem witness_StepKeepsInvariant : waiting.Inv ∧ (step waiting = .next waiting.endCycle) := by
  refine ⟨⟨by decide, by decide, by decide, fun r h => ?_⟩, rfl⟩
  obtain rfl : 5 = r := by injection h
  rfl

theorem witness_EveryInputKeepsMemoryCanonical :
    Memory.wf waiting.cfg.font waiting.mem ∧ waiting.mem ≠ [] ∧
    after (waiting.accept (.load [1, 2] (some 0x300))) State.mem = some
      [(0x200, 0xF5), (0x201, 0x0A), (0x300, 1), (0x301, 2)] := by
  decide

/-- Protected font memory. -/
def protectFont (s : State) : State := withCfg s fun c => { c with fontWrite := .fault }

theorem witness_ProtectedFontIsNeverMutated :
    (protectFont (atI 0x04D)).cfg.fontWrite = .fault ∧ (after (step (protectFont (atI 0x04D))) State.pc).isSome = true ∧
    run (protectFont (regs (atI 0x04D) [(0, 123)])) 0xF033 (fun t => (t.readBytes 0x04D 4, t.run))
      = some ([1, 2, 3, 0xF0], .running) ∧
    run (protectFont (regs (atI 0x0A0) [(0, 123)])) 0xF033 (fun t => (t.readBytes 0x09F 2, t.run))
      = some ([0x80, 1], .running) := by decide

theorem witness_RegistersWrittenOnlyAsListed :
    exec (.ldImm 3 7) State.reset = .next ((State.reset.setReg 3 7).advance) ∧ ¬MayWriteReg (.ldImm 3 7) 4 ∧
    ¬MayWriteReg (.addReg 3 4) 0xE ∧ ¬MayWriteReg (.loadRegs 3) 4 :=
  ⟨rfl, by unfold MayWriteReg; decide, by unfold MayWriteReg; decide, by unfold MayWriteReg; decide⟩

theorem witness_MemoryWrittenOnlyAsListed :
    exec (.ldB 3) (atI 0xFFD) = .next ((atI 0xFFD).storeBytes 0xFFD [0, 0, 0]).advance ∧ storedBytes (.ldB 3) = 3 :=
  ⟨rfl, rfl⟩

theorem witness_DedicatedLocationsWrittenOnlyAsListed :
    exec (.ldI 7) State.reset = .next (State.reset.setI 7).advance := rfl

theorem witness_OnlyDrawingTouchesTheDisplay :
    ¬Draws (.ldI 7) ∧ Draws .cls ∧ Draws (.drw 0 0 0) ∧ exec (.ldI 7) State.reset = .next (State.reset.setI 7).advance ∧
    (after (exec .cls State.reset) State.redraw = some true) ∧
    (after (exec (.drw 0 0 0) State.reset) State.redraw = some true) ∧
    State.reset.accept .consumeRedraw = .next (State.reset.setRedraw false) ∧
    Input.consumeRedraw ≠ .cycle ∧ Input.consumeRedraw ≠ .reset anyValues :=
  ⟨by simp [Draws], .inl rfl, .inr ⟨0, 0, 0, rfl⟩, rfl, by decide, by decide, rfl, by decide, by decide⟩

theorem witness_OrdinaryInstructionsAdvancePcByTwo :
    ¬Redirects (.ldI 7) ∧ exec (.ldI 7) (atPc 0xFFFE) = .next (((atPc 0xFFFE).setI 7).setPc 0) :=
  ⟨by simp [Redirects], rfl⟩

/-- The reset state under the independent tick mode, with both timers running. -/
def ticking : State := withCfg ((State.reset.setDt 1).setSt 7) fun c => { c with tickMode := .independent }

/-- T8 too: one tick, and one more. -/
theorem witness_HostEventsWriteOnlyTheirLocations :
    State.reset.cfg.tickMode = .coupled ∧ (0 : Fin 16) ≠ 15 ∧
    ticking.cfg.tickMode = .independent ∧ ticking.run = .running ∧ (ticking.halt .quit).run = .halted .quit ∧
    after (ticking.acceptAll [.tick, .tick]) (fun t => (t.dt, t.st)) = some (0, 5) ∧
    after ((ticking.halt .quit).accept .tick) (fun t => (t.dt, t.st)) = some (1, 7) := by decide

/-- A stack of a given depth. -/
def deep (n : Fin 17) : State := { State.reset with sp := n }

theorem witness_CallPushesItsOwnAddress :
    (deep 16).sp.val = 16 ∧ (deep 15).sp.val < 16 ∧ (deep 0).sp.val < 16 ∧ (15 : Fin 16).val = (deep 15).sp.val ∧
    (14 : Fin 16).val ≠ (deep 15).sp.val := by decide

theorem witness_ReturnGoesPastTheCall :
    (deep 0).sp.val = 0 ∧ (deep 1).sp.val = (0 : Fin 16).val + 1 ∧ (deep 16).sp.val = (15 : Fin 16).val + 1 := by decide

/-- W5 too: the call answers a state that meets the other hypotheses itself. -/
theorem witness_ReturnUndoesCall :
    (after (exec (.call 0x300) (deep 15)) State.sp = some 16) ∧
    (match exec (.call 0x300) (deep 0) with
      | .next t => after (exec .ret t) (fun w => (w.pc, w.sp))
      | .fault _ => none
      | .refused _ => none) = some (0x202, 0) := by decide

/-- Both sources of a shift. -/
theorem witness_ShiftsFlagTheBitShiftedOut :
    (0x80 : Byte) = (if (regs State.reset [(1, 0x80)]).cfg.shiftUsesVy = true then (regs State.reset [(1, 0x80)]).reg 2
      else (regs State.reset [(1, 0x80)]).reg 1) ∧
    (0x00 : Byte) = (if (withCfg (regs State.reset [(1, 0x80)]) fun c => { c with shiftUsesVy := true }).cfg.shiftUsesVy = true
      then (regs State.reset [(1, 0x80)]).reg 2 else (regs State.reset [(1, 0x80)]).reg 1) ∧
    (0 : Nibble) ≠ vf ∧ (0xE : Nibble) ≠ vf := by decide

/-- The statements whose only hypothesis is that the destination is not VF, or a bit that the mask clears. -/
theorem witness_destination_is_not_vf : (0xE : Nibble) ≠ vf ∧ (0x0F : Byte).getLsbD 4 = false := by decide

/-- Where the two cases of Fx33 meet: the end of memory, and both ends of a protected font. -/
theorem witness_DecimalDigitsAreStored :
    ((atI 0xFFD).i.toNat + 2 ≤ 0xFFF ∧ (atI 0xFFD).cfg.fontWrite = .write) ∧ 0xFFF < (atI 0xFFE).i.toNat + 2 ∧
    (faultOf (exec (.ldB 0) (atI 0xFFD)) = none) ∧ (faultOf (exec (.ldB 0) (atI 0xFFE))).isSome = true ∧
    (faultOf (exec (.ldB 0) (protectFont (atI 0x04D))) = none) ∧
    (faultOf (exec (.ldB 0) (protectFont (atI 0x04E))) = some (.fontWrite 0x050)) ∧
    (faultOf (exec (.ldB 0) (protectFont (atI 0x09F))) = some (.fontWrite 0x09F)) ∧
    (faultOf (exec (.ldB 0) (protectFont (atI 0x0A0))) = none) := by decide

theorem witness_RegistersAreStoredFromI :
    ((atI 0xFF0).i.toNat + (0xF : Nibble).toNat ≤ 0xFFF ∧ (atI 0xFF0).cfg.fontWrite = .write) ∧
    (0x09F < (protectFont (atI 0x0A0)).i.toNat) ∧ (protectFont (atI 0x04F)).i.toNat + (0 : Nibble).toNat < 0x050 ∧
    (0xF : Nibble).toNat ≤ (0xF : Nibble).toNat := by decide

theorem witness_RegistersAreLoadedFromI :
    (atI 0xFF0).i.toNat + (0xF : Nibble).toNat ≤ 0xFFF ∧ (atI 0xFFF).i.toNat + (0 : Nibble).toNat ≤ 0xFFF ∧
    (0 : Nibble).toNat < (1 : Nibble).toNat := by decide

theorem witness_MemoryTransferFaults :
    0xFFF < (atI 0xFFE).i.toNat + 2 ∧ 0xFFF < (atI 0xFF1).i.toNat + (0xF : Nibble).toNat ∧
    0xFFF < (atI 0x1000).i.toNat + (0 : Nibble).toNat ∧
    (faultOf (exec (.ldB 0) (atI 0xFFE)) = some (.addressOutOfRange 0x1000)) ∧
    (faultOf (exec (.loadRegs 0xF) (atI 0xFF1)) = some (.addressOutOfRange 0x1000)) ∧
    ((protectFont (atI 0x04E)).cfg.fontWrite = .fault ∧ (protectFont (atI 0x04E)).i.toNat ≤ 0x09F ∧
      0x050 ≤ (protectFont (atI 0x04E)).i.toNat + 2) ∧
    ((protectFont (atI 0x050)).i.toNat ≤ 0x09F ∧ 0x050 ≤ (protectFont (atI 0x050)).i.toNat + (0 : Nibble).toNat) ∧
    (faultOf (exec (.storeRegs 0) (protectFont (atI 0x09F))) = some (.fontWrite 0x09F)) := by decide

theorem witness_TimersCountDownToZeroAndStay :
    0 < (State.reset.setDt 1).dt.toNat ∧ State.reset.dt = 0 ∧ State.reset.st = 0 ∧ State.reset.ready ∧
    step State.reset = .next State.reset.advance.endCycle ∧
    (∀ op x, State.reset.ready → State.reset.fetch = .ok op → decode op ≠ .instr (.ldDtVx x)) :=
  ⟨by decide, rfl, rfl, ⟨rfl, rfl⟩, rfl, fun op x _ h => by
    have h0 : State.reset.fetch = .ok 0x0000 := rfl
    rw [h0] at h
    obtain rfl : 0x0000 = op := by injection h
    exact fun e => nomatch e⟩

theorem witness_TimerWriteIsTickedInItsCycle :
    (State.reset.withFetchWord 16 0xF015).ready ∧ (State.reset.withFetchWord 16 0xF015).fetch = .ok 0xF015 ∧
    decode 0xF015 = .instr (.ldDtVx 0) ∧
    (State.reset.withFetchWord 16 0xF018).ready ∧ (State.reset.withFetchWord 16 0xF018).fetch = .ok 0xF018 ∧
    decode 0xF018 = .instr (.ldStVx 0) :=
  ⟨⟨rfl, rfl⟩, rfl, rfl, ⟨rfl, rfl⟩, rfl, rfl⟩

/-- The reset state under a key index policy, with a value in V0. -/
def keyed (p : KeyIndexPolicy) (v : Byte) : State := withCfg (regs State.reset [(0, v)]) fun c => { c with keyIndex := p }

theorem witness_KeySkipsReadTheKeyOfVx :
    ((keyed .fault 15).reg 0).toNat = (15 : Fin 16).val ∧
    (15 < ((keyed .mask 16).reg 0).toNat ∧ (keyed .mask 16).cfg.keyIndex = .mask ∧
      ((keyed .mask 16).reg 0).toNat % 16 = (0 : Fin 16).val) ∧
    (15 < ((keyed .notPressed 16).reg 0).toNat ∧ (keyed .notPressed 16).cfg.keyIndex = .notPressed) ∧
    (15 < ((keyed .fault 16).reg 0).toNat ∧ (keyed .fault 16).cfg.keyIndex = .fault) ∧
    (faultOf (exec (.skp 0) (keyed .fault 15)) = none) ∧
    (faultOf (exec (.sknp 0) (keyed .fault 16)) = some (.keyIndexOutOfRange 16)) := by decide

theorem witness_KeyWaitCompletesOrSuspends :
    LowestPressedIs (pressed State.reset [15]) 15 ∧ LowestPressedIs (pressed State.reset [7, 2]) 2 ∧
    NoKeyPressed State.reset := by
  unfold LowestPressedIs NoKeyPressed
  decide

theorem witness_PendingWaitResolvesOnAKey :
    waiting.run = .running ∧ waiting.mode = .awaitingKey 5 ∧ LowestPressedIs (pressed waiting [15]) 15 ∧
    NoKeyPressed waiting := by
  unfold LowestPressedIs NoKeyPressed
  decide

theorem witness_WaitEqualsReexecution :
    waiting.run = .running ∧ waiting.mode = .awaitingKey 5 ∧ waiting.fetch = .ok (encode (.ldVxK 5)) := ⟨rfl, rfl, rfl⟩

/-- No row (D5), and the last byte of memory as the last row (D6); and pixels of each case. -/
theorem witness_DrawXorsPixelsAndReportsCollision :
    ((0 : Nibble) = 0 ∧ (atI 0xFFF).i.toNat + (1 : Nibble).toNat ≤ 0x1000) ∧
    SpritePixelDrawn (bytes (atI 0x300) 0x300 [0x80]) 0 0 1 0 0 ∧
    (∀ r, ¬SpritePixelDrawn (atI 0x300) 0 0 0 0 r) ∧ (lit State.reset [(0, 0)]).pixel 0 0 = true ∧
    State.reset.pixel 0 0 = false ∧
    (after (exec (.drw 0 0 0) (regs State.reset [(0xF, 1)])) (fun t => (t.reg vf, t.redraw)) = some (0, true)) ∧
    (after (exec (.drw 0 0 1) (bytes (atI 0xFFF) 0xFFF [0x80])) (fun t => t.pixel 0 0) = some true) :=
  ⟨by decide, ⟨0, 0, by decide, by decide, by decide, ⟨by decide, by decide⟩⟩, fun _ ⟨_, _, h, _⟩ => absurd h (by simp), by decide,
    by decide, by decide, by decide⟩

/-- D7, and the first address past memory. -/
theorem witness_DrawPastMemoryFaults :
    (2 : Nibble) ≠ 0 ∧ 0xFFF < (atI 0xFFF).i.toNat + ((2 : Nibble).toNat - 1) ∧
    0xFFF < (atI 0x1000).i.toNat + ((1 : Nibble).toNat - 1) ∧
    (faultOf (exec (.drw 0 1 2) (atI 0xFFF)) = some (.addressOutOfRange 0x1000)) := by decide

/-- W4: the first draw, after which the second draw's state is the first's own next state. -/
theorem witness_DrawingTwiceRestoresTheDisplay :
    (match exec (.drw 0 0 1) (bytes (atI 0x300) 0x300 [0xFF]) with
      | .next t => after (exec (.drw 0 0 1) t) (fun w =>
          (decide (t.i = 0x300 ∧ t.byteAt 0x300 = 0xFF ∧ t.reg 0 = 0), t.pixel 7 0, w.pixel 7 0, t.reg vf, w.reg vf))
      | .fault _ => none
      | .refused _ => none) = some (true, true, false, 0, 1) := by decide

/-- A halted state whose reset leaves the given values. -/
def unspecifiedInit : State := withCfg (State.reset.halt (.stackOverflow 0x200)) fun c => { c with init := .unspecified }

/-- Values with two cells for one address, one beside the font, and one inside it. -/
def someValues : InitValues := { anyValues with mem := [(0xFFF, 1), (0x0A0, 2), (0xFFF, 3), (0x09F, 4)] }

/-- Both policies; the cell that counts is an address's last, none counts inside the font, and an address without one
reads 0. -/
theorem witness_ResetLeavesTheStatedValues :
    State.reset.cfg.init = .zero ∧ unspecifiedInit.cfg.init = .unspecified ∧
    (someValues.mem = [(0xFFF, 1), (0x0A0, 2)] ++ (0xFFF, 3) :: [(0x09F, 4)] ∧
      (∀ c ∈ [((0x09F, 4) : Host.Cell)], c.1 ≠ 0xFFF)) ∧
    (∀ c ∈ someValues.mem, c.1 ≠ 0x200) ∧
    after (unspecifiedInit.accept (.reset someValues)) (fun t => [0xFFF, 0x0A0, 0x09F, 0x200].map t.byteAt)
      = some [3, 2, 0x80, 0] ∧
    after (unspecifiedInit.accept (.reset someValues)) (fun t => (t.reg 3, t.i, t.pc, t.run))
      = some (0xFF, 0xFFFF, 0x200, .running) :=
  ⟨rfl, rfl, ⟨rfl, by decide⟩, by decide, by decide, by decide⟩

theorem witness_LoadPlacesBytesOrRefuses :
    State.reset.run = .running ∧ State.reset.started = false ∧ 0x09F < 0x0A0 ∧
    (0x0A0 ≤ 0x200 ∧ 0x1000 < 0x200 + (List.replicate 3585 (0 : Byte)).length) ∧
    0x200 + (List.replicate 3584 (0 : Byte)).length ≤ 0x1000 ∧ State.reset.endCycle.started = true :=
  ⟨rfl, rfl, by decide, ⟨by decide, by rw [List.length_replicate]; decide⟩, by rw [List.length_replicate], rfl⟩

end Sys2Proof.Tests
end

section
/-! PROOFS. What an instruction writes of the general registers and of the dedicated locations (spec 10_state.md R20 to
R27): the split over the instructions follows R22's list of destinations and R27's "written by" column. -/

namespace Sys2Proof.Machine

/-! ### Registers after the shared updates -/

/-- Stored bytes change no register. -/
@[simp] theorem State.reg_storeBytes (s : State) (a : Nat) (bs : List Byte) (j : Nibble) :
    (s.storeBytes a bs).reg j = s.reg j := by
  rw [State.storeBytes_eq]
  rfl

/-- A result and its flag leave every register but the destination and VF. -/
theorem State.reg_setRegFlag_other {x j : Nibble} (h : ¬(j = x ∨ j = vf)) (s : State) (b : Byte) (f : Bool) :
    (s.setRegFlag x b f).reg j = s.reg j := by
  obtain ⟨hx, hvf⟩ := not_or.1 h
  rw [State.reg_setRegFlag, if_neg hvf, if_neg hx]

/-- Bytes written from `V[0]` on leave every register past the last of them. -/
theorem State.reg_setRegs_zero_past (s : State) {bs : List Byte} {j : Nibble} (hlen : bs.length ≤ 16)
    (hj : bs.length ≤ j.toNat) : (s.setRegs 0 bs).reg j = s.reg j := by
  rw [State.reg_setRegs s 0 bs (by omega), dif_neg (by omega)]

/-! ### The obligations -/

/-- Settles O19, by the instruction's destinations: `x`; `x` and VF; VF; `V[0..x]`; none. -/
theorem registersWrittenOnlyAsListed : Obligations.RegistersWrittenOnlyAsListed := by
  intro i s t h j hj
  cases i
  case ldImm x _ | addImm x _ | ldReg x _ | orReg x _ | andReg x _ | xorReg x _ | rnd x _ | ldVxDt x =>
    cases h
    have hx : j ≠ x := hj
    simp [State.reg_setReg, hx]
  case ldVxK x =>
    have hx : j ≠ x := hj
    obtain ⟨k, -, rfl⟩ | ⟨-, rfl⟩ := execLdVxK_next h
    · simp [State.reg_setReg, hx]
    · simp
  case addReg x y | subReg x y | shr x y | subnReg x y | shl x y =>
    cases h
    exact State.reg_setRegFlag_other hj s _ _
  case drw x y n =>
    have hvf : j ≠ vf := hj
    obtain ⟨-, rfl⟩ := execDrw_next h
    simp [State.reg_setReg, hvf]
  case loadRegs x =>
    have hx : x.toNat < j.toNat := Nat.lt_of_not_le hj
    have := x.isLt
    obtain ⟨-, rfl⟩ := execLoadRegs_next h
    rw [State.reg_advance]
    apply State.reg_setRegs_zero_past <;> rw [State.length_readBytes] <;> omega
  case ret =>
    obtain ⟨k, hk, -, rfl⟩ := execRet_next h
    rfl
  case call nnn =>
    obtain ⟨hk, rfl⟩ := execCall_next h
    rfl
  case skp x =>
    obtain ⟨p, -, rfl⟩ := execSkp_next h
    simp
  case sknp x =>
    obtain ⟨p, -, rfl⟩ := execSknp_next h
    simp
  case ldB x =>
    obtain ⟨-, rfl⟩ := execLdB_next h
    simp
  case storeRegs x =>
    obtain ⟨-, rfl⟩ := execStoreRegs_next h
    simp
  case cls | jp | seImm | sneImm | seReg | sneReg | ldI | jpV0 | ldDtVx | ldStVx | addI | ldF =>
    cases h
    simp

/-- Settles O21, by the dedicated location an instruction writes: `I`; `SP` and the stack; a timer; MODE; the oracle's
position; none. -/
theorem dedicatedLocationsWrittenOnlyAsListed : Obligations.DedicatedLocationsWrittenOnlyAsListed := by
  intro i s t h
  cases i
  case ldI | addI | ldF | ldDtVx | ldStVx | rnd =>
    cases h
    simp
  case ret =>
    obtain ⟨k, hk, -, rfl⟩ := execRet_next h
    simp
  case call nnn =>
    obtain ⟨hk, rfl⟩ := execCall_next h
    simp
  case ldVxK x =>
    obtain ⟨k, -, rfl⟩ | ⟨-, rfl⟩ := execLdVxK_next h
    · simp
    · simp
  case skp x =>
    obtain ⟨p, -, rfl⟩ := execSkp_next h
    simp
  case sknp x =>
    obtain ⟨p, -, rfl⟩ := execSknp_next h
    simp
  case ldB x =>
    obtain ⟨-, rfl⟩ := execLdB_next h
    rw [State.storeBytes_eq]
    simp
  case storeRegs x =>
    obtain ⟨-, rfl⟩ := execStoreRegs_next h
    rw [State.storeBytes_eq]
    simp
  case loadRegs x =>
    obtain ⟨-, rfl⟩ := execLoadRegs_next h
    rw [State.setRegs_eq]
    simp
  case drw x y n =>
    obtain ⟨-, rfl⟩ := execDrw_next h
    simp
  case addReg | subReg | shr | subnReg | shl =>
    cases h
    rw [State.setRegFlag_eq]
    simp
  case cls | jp | seImm | sneImm | seReg | sneReg | jpV0 | ldImm | addImm | ldReg | orReg | andReg | xorReg | ldVxDt =>
    cases h
    simp

end Sys2Proof.Machine
end

section
/-! PROOFS. Memory (spec 20_memory.md): the word at PC is the one the step runs (R61, R74), which bytes an instruction
stores (R64), the canonical form (R60), and the invariant that every step keeps. -/

namespace Sys2Proof.Machine

/-! ### What stored bytes leave -/

@[simp] theorem State.storeBytes_pc (s : State) (a : Nat) (bs : List Byte) : (s.storeBytes a bs).pc = s.pc := by
  rw [State.storeBytes_eq]
@[simp] theorem State.storeBytes_run (s : State) (a : Nat) (bs : List Byte) : (s.storeBytes a bs).run = s.run := by
  rw [State.storeBytes_eq]
@[simp] theorem State.storeBytes_mode (s : State) (a : Nat) (bs : List Byte) : (s.storeBytes a bs).mode = s.mode := by
  rw [State.storeBytes_eq]
@[simp] theorem State.storeBytes_cfg (s : State) (a : Nat) (bs : List Byte) : (s.storeBytes a bs).cfg = s.cfg := by
  rw [State.storeBytes_eq]

/-! ### The word at PC -/

/-- A word stored at an address is the word its two bytes hold. -/
theorem State.joinBytes_storeBytes (s : State) (a : Nat) (op : Word) :
    joinBytes ((s.storeBytes a (wordBytes op)).byteAt a) ((s.storeBytes a (wordBytes op)).byteAt (a + 1)) = op := by
  have hi : (s.storeBytes a (wordBytes op)).byteAt a = op.extractLsb' 8 8 := by
    simp [State.byteAt_storeBytes, wordBytes]
  have lo : (s.storeBytes a (wordBytes op)).byteAt (a + 1) = op.extractLsb' 0 8 := by
    simp [State.byteAt_storeBytes, wordBytes]
  rw [hi, lo, joinBytes_split]

/-- A word stored at a PC that may fetch is the word fetched. -/
theorem State.fetch_storeBytes {s : State} (op : Word) (hpc : s.pc.toNat ≤ 0xFFE)
    (hodd : s.cfg.oddPc = .fault → s.pc.toNat % 2 = 0) :
    (s.storeBytes s.pc.toNat (wordBytes op)).fetch = .ok op := by
  rw [State.fetch_eq_ok, State.wordAtPc, State.storeBytes_pc, State.storeBytes_cfg, State.joinBytes_storeBytes]
  exact ⟨hpc, hodd, rfl⟩

/-- Where PC names two bytes of memory, `withFetchWord` makes the block ready and stores the word at PC. -/
theorem State.withFetchWord_toNat {s : State} (op : Word) (hpc : s.pc.toNat ≤ 0xFFE) :
    s.withFetchWord 16 op.toNat = ((s.setRun .running).setMode .free).storeBytes s.pc.toNat (wordBytes op) := by
  have hw : tableWord 16 op.toNat = op := by
    rw [tableWord, Nat.mod_eq_of_lt op.isLt, BitVec.ofNat_toNat, BitVec.setWidth_eq]
  have hm : s.pc.toNat + 1 < memSize := by unfold memSize; omega
  rw [State.withFetchWord, hw, State.withWordAtPc, if_pos hm]

/-- Settles O13: the plain store and the one of `withFetchWord` are the same store, in two states of one PC. -/
theorem storedWordIsFetchedNext : Obligations.StoredWordIsFetchedNext := by
  intro s op hpc hodd
  rw [State.withFetchWord_toNat op hpc]
  refine ⟨State.fetch_storeBytes op hpc hodd, ?_, ?_⟩
  · exact State.fetch_storeBytes (s := (s.setRun .running).setMode .free) op hpc hodd
  · simp [State.ready]

/-- Settles O6, by the fetch of the word at PC. -/
theorem stepRunsTheDecodedInstruction : Obligations.StepRunsTheDecodedInstruction := by
  intro s i hrun hmode hpc hodd hdec
  have hfetch : s.fetch = .ok s.wordAtPc := State.fetch_eq_ok.2 ⟨hpc, hodd, rfl⟩
  have hdec : decode s.wordAtPc = .instr i := hdec
  have hstep : step s = s.settle (exec i s) := by rw [step_fetched hrun hmode hfetch, hdec, execDecoded]
  refine ⟨fun t ht => ?_, fun f hf => ?_, exec_ne_refused i s⟩
  · rw [hstep, ht, State.settle]
  · rw [hstep, hf]
    rfl

/-! ### The bytes an instruction stores -/

/-- An instruction that stores no byte leaves memory as it is. -/
theorem exec_mem_of_storedBytes_zero {i : Instr} {s t : State} (hi : storedBytes i = 0) (h : exec i s = .next t) :
    t.mem = s.mem := by
  cases i
  case ldB | storeRegs => cases hi
  case ret =>
    obtain ⟨k, hk, -, rfl⟩ := execRet_next h
    rfl
  case call nnn =>
    obtain ⟨hk, rfl⟩ := execCall_next h
    rfl
  case skp x =>
    obtain ⟨p, -, rfl⟩ := execSkp_next h
    rfl
  case sknp x =>
    obtain ⟨p, -, rfl⟩ := execSknp_next h
    rfl
  case ldVxK x =>
    obtain ⟨k, -, rfl⟩ | ⟨-, rfl⟩ := execLdVxK_next h
    · rfl
    · rfl
  case loadRegs x =>
    obtain ⟨-, rfl⟩ := execLoadRegs_next h
    rw [State.setRegs_eq]
    rfl
  case drw x y n =>
    obtain ⟨-, rfl⟩ := execDrw_next h
    rfl
  all_goals
    cases h
    rfl

/-- A store that passes its checks fits in memory. -/
theorem State.fits_of_writeFault {s : State} {len : Nat} (hlen : 0 < len) (h : s.writeFault len = none) :
    s.i.toNat + len ≤ memSize := by
  have := rangeFault_eq_none.1 (State.writeFault_eq_none.1 h).1
  unfold memSize
  omega

/-- Everything an instruction does to memory: it stores its number of bytes from `M[I]` on, all of them in memory. -/
theorem exec_mem {i : Instr} {s t : State} (h : exec i s = .next t) :
    ∃ bs : List Byte, bs.length = storedBytes i ∧ (bs = [] ∨ s.i.toNat + bs.length ≤ memSize) ∧
      t.mem = (s.storeBytes s.i.toNat bs).mem := by
  cases i
  case ldB x =>
    obtain ⟨hw, rfl⟩ := execLdB_next h
    exact ⟨decimalDigits (s.reg x), rfl, .inr (State.fits_of_writeFault (Nat.succ_pos _) hw), rfl⟩
  case storeRegs x =>
    obtain ⟨hw, rfl⟩ := execStoreRegs_next h
    refine ⟨s.readRegs (x.toNat + 1), s.length_readRegs _, .inr ?_, rfl⟩
    rw [s.length_readRegs]
    exact State.fits_of_writeFault (Nat.succ_pos _) hw
  all_goals exact ⟨[], rfl, .inl rfl, exec_mem_of_storedBytes_zero rfl h⟩

/-- No instruction writes the parameters. -/
theorem exec_cfg {i : Instr} {s t : State} (h : exec i s = .next t) : t.cfg = s.cfg := by
  obtain ⟨-, -, -, -, -, -, -, -, -, -, hcfg⟩ := dedicatedLocationsWrittenOnlyAsListed i s t h
  exact hcfg

/-- Settles O20, from the bytes that an instruction stores. -/
theorem memoryWrittenOnlyAsListed : Obligations.MemoryWrittenOnlyAsListed := by
  intro i s t h b hb
  obtain ⟨bs, hlen, -, hmem⟩ := exec_mem h
  rw [← hlen] at hb
  rw [State.byteAt_congr hmem (by rw [exec_cfg h, State.storeBytes_cfg]), State.byteAt_storeBytes, dif_neg hb]

/-! ### What a step leaves -/

/-- Everything the cycle of a pending wait can do: complete with a key, or nothing. -/
theorem resolveWait_cases (r : Nibble) (s : State) :
    (∃ k, s.lowestPressed = some k ∧ resolveWait r s = ((s.setReg r (keyByte k)).setMode .free).advance) ∨
    (s.lowestPressed = none ∧ resolveWait r s = s) := by
  unfold resolveWait
  cases s.lowestPressed with
  | some k => exact .inl ⟨k, rfl, rfl⟩
  | none => exact .inr ⟨rfl, rfl⟩

/-- Everything the next state of a step can be: the old one; the old one halted; or the end of the cycle of a pending
wait, of an unrecognised word or of an instruction. -/
theorem step_next_cases {s t : State} (h : step s = .next t) :
    t = s ∨ (∃ f, t = s.halt f) ∨
    ∃ u, t = u.endCycle ∧
      ((∃ r, s.mode = .awaitingKey r ∧ u = resolveWait r s) ∨
       (s.mode = .free ∧ ∃ op, s.fetch = .ok op ∧
        ((decode op = .unrecognised op ∧ u = s.advance) ∨ ∃ i, decode op = .instr i ∧ exec i s = .next u))) := by
  obtain ⟨f, -, hs⟩ | ⟨r, -, hm, hs⟩ |
    ⟨-, hm, ⟨f, -, hs⟩ | ⟨op, hf, hd, hs⟩ | ⟨op, i, hf, hd, hs⟩⟩ := step_cases s
  · cases hs.symm.trans h
    exact .inl rfl
  · cases hs.symm.trans h
    exact .inr (.inr ⟨_, rfl, .inl ⟨r, hm, rfl⟩⟩)
  · cases hs.symm.trans h
    exact .inr (.inl ⟨f, rfl⟩)
  · cases hs.symm.trans h
    exact .inr (.inr ⟨_, rfl, .inr ⟨hm, op, hf, .inl ⟨hd, rfl⟩⟩⟩)
  · obtain ⟨u, hu, he⟩ | ⟨f, -, he⟩ := settle_exec i s
    · cases (hs.trans he).symm.trans h
      exact .inr (.inr ⟨u, rfl, .inr ⟨hm, op, hf, .inr ⟨i, hd, hu⟩⟩⟩)
    · cases (hs.trans he).symm.trans h
      exact .inr (.inl ⟨f, rfl⟩)

/-! ### The canonical form of memory -/

/-- An instruction keeps memory canonical: what it stores lies in memory. -/
theorem exec_keeps_wf {i : Instr} {s t : State} (hwf : Memory.wf s.cfg.font s.mem) (h : exec i s = .next t) :
    Memory.wf t.cfg.font t.mem := by
  obtain ⟨bs, -, rfl | hfit, hmem⟩ := exec_mem h
  · rw [exec_cfg h, hmem]
    exact hwf
  · rw [exec_cfg h, hmem]
    exact State.wf_storeBytes bs hfit hwf

/-- The cycle of a pending wait keeps memory canonical: it writes none. -/
theorem resolveWait_keeps_wf {s : State} (r : Nibble) (hwf : Memory.wf s.cfg.font s.mem) :
    Memory.wf (resolveWait r s).cfg.font (resolveWait r s).mem := by
  obtain ⟨k, -, hr⟩ | ⟨-, hr⟩ := resolveWait_cases r s
  · rw [hr]
    exact hwf
  · rwa [hr]

/-- A step keeps memory canonical. -/
theorem step_keeps_wf {s t : State} (hwf : Memory.wf s.cfg.font s.mem) (h : step s = .next t) :
    Memory.wf t.cfg.font t.mem := by
  obtain rfl | ⟨f, rfl⟩ | ⟨u, rfl, hu⟩ := step_next_cases h
  · exact hwf
  · exact hwf
  · rw [State.endCycle_cfg, State.endCycle_mem]
    obtain ⟨r, -, rfl⟩ | ⟨-, op, -, ⟨-, rfl⟩ | ⟨i, -, hi⟩⟩ := hu
    · exact resolveWait_keeps_wf r hwf
    · exact hwf
    · exact exec_keeps_wf hwf hi

/-- What the reset input leaves is canonical, whatever was there. -/
theorem State.wf_resetInput (s : State) (u : InitValues) :
    Memory.wf (s.resetInput u).cfg.font (s.resetInput u).mem := by
  unfold State.resetInput
  cases s.cfg.init with
  | zero => exact Memory.wf_nil
  | unspecified => exact State.wf_fillMemory (s := resetZero s.cfg s.draws) u.mem Memory.wf_nil

/-- A load keeps memory canonical: what it stores lies in memory. -/
theorem State.wf_loadInput {s : State} (bytes : List Byte) (origin : Nat) (hwf : Memory.wf s.cfg.font s.mem) :
    Memory.wf (s.loadInput bytes origin).cfg.font (s.loadInput bytes origin).mem := by
  obtain ⟨-, -, ⟨f, -, hl⟩ | ⟨-, hfit, hl⟩⟩ | ⟨-, hl⟩ := s.loadInput_cases bytes origin
  · rw [hl]
    exact hwf
  · rw [hl, State.storeBytes_cfg]
    exact State.wf_storeBytes bytes hfit hwf
  · rwa [hl]

/-- A tick keeps memory canonical: it writes none. -/
theorem State.wf_tickInput {s : State} (hwf : Memory.wf s.cfg.font s.mem) :
    Memory.wf s.tickInput.cfg.font s.tickInput.mem := by
  obtain ⟨-, -, ht⟩ | ⟨-, ht⟩ := s.tickInput_cases
  · rw [ht]
    exact hwf
  · rwa [ht]

/-- Settles O17, by the input. -/
theorem everyInputKeepsMemoryCanonical : Obligations.EveryInputKeepsMemoryCanonical := by
  intro s t e hwf h
  cases e
  case cycle => exact step_keeps_wf hwf h
  case reset u =>
    cases h
    exact s.wf_resetInput u
  case load bytes origin =>
    cases h
    exact State.wf_loadInput bytes (loadOrigin origin) hwf
  case tick =>
    cases h
    exact State.wf_tickInput hwf
  case keyEvent | consumeRedraw | quit =>
    cases h
    exact hwf

/-! ### The bound on PC -/

theorem State.advance_pc_le {s : State} (hpc : s.pc.toNat ≤ 0xFFE) : s.advance.pc.toNat ≤ 0x1000 := by
  rw [State.advance_pc]
  bv_omega

theorem State.skipIf_pc_le {s : State} (c : Bool) (hpc : s.pc.toNat ≤ 0xFFE) : (s.skipIf c).pc.toNat ≤ 0x1002 := by
  rw [State.skipIf_pc]
  split
  · bv_omega
  · bv_omega

/-- Every valid stack entry is an address an instruction was fetched from: `State.Inv.stackBound`, by name. -/
def State.StackBounded (s : State) : Prop := ∀ k : Fin 16, k.val < s.sp.val → (s.stack[k.val]).toNat ≤ 0xFFE

/-- An instruction fetched within memory leaves PC in the range of Bnnn's targets, the largest there are (spec
41_control_flow.md R128). -/
theorem exec_pc_le {i : Instr} {s t : State} (hpc : s.pc.toNat ≤ 0xFFE) (hstack : s.StackBounded)
    (h : exec i s = .next t) : t.pc.toNat ≤ 0x10FE := by
  have hadv : s.advance.pc.toNat ≤ 0x10FE := (State.advance_pc_le hpc).trans (by decide)
  have hskip (c : Bool) : (s.skipIf c).pc.toNat ≤ 0x10FE := (State.skipIf_pc_le c hpc).trans (by decide)
  cases i
  case jp nnn =>
    cases h
    rw [State.setPc_pc]
    bv_omega
  case call nnn =>
    obtain ⟨hk, rfl⟩ := execCall_next h
    rw [State.setPc_pc]
    bv_omega
  case jpV0 nnn =>
    cases h
    rw [State.setPc_pc]
    bv_omega
  case ret =>
    obtain ⟨k, hk, hsp, rfl⟩ := execRet_next h
    have htop : (s.stack[k]).toNat ≤ 0xFFE := hstack ⟨k, hk⟩ (by rw [hsp]; exact Nat.lt_succ_self k)
    rw [State.setPc_pc]
    bv_omega
  case seImm | sneImm | seReg | sneReg =>
    cases h
    exact hskip _
  case skp x =>
    obtain ⟨p, -, rfl⟩ := execSkp_next h
    exact hskip p
  case sknp x =>
    obtain ⟨p, -, rfl⟩ := execSknp_next h
    exact hskip _
  case ldVxK x =>
    obtain ⟨k, -, rfl⟩ | ⟨-, rfl⟩ := execLdVxK_next h
    · exact hadv
    · exact hpc.trans (by decide)
  case ldB x =>
    obtain ⟨-, rfl⟩ := execLdB_next h
    rw [State.advance_pc, State.storeBytes_pc]
    exact hadv
  case storeRegs x =>
    obtain ⟨-, rfl⟩ := execStoreRegs_next h
    rw [State.advance_pc, State.storeBytes_pc]
    exact hadv
  case loadRegs x =>
    obtain ⟨-, rfl⟩ := execLoadRegs_next h
    rw [State.advance_pc, State.setRegs_eq]
    exact hadv
  case drw x y n =>
    obtain ⟨-, rfl⟩ := execDrw_next h
    exact hadv
  all_goals
    cases h
    exact hadv

/-! ### The bound on the stack's entries -/

/-- A call pushes its own address, which was fetched from. -/
theorem execCall_keeps_stackBounded {nnn : Addr12} {s t : State} (hpc : s.pc.toNat ≤ 0xFFE) (hs : s.StackBounded)
    (h : execCall nnn s = .next t) : t.StackBounded := by
  obtain ⟨hsp, rfl⟩ := execCall_next h
  intro k hk
  simp only [State.setPc_sp, State.setPc_stack] at hk ⊢
  rw [Vector.getElem_set]
  split
  · exact hpc
  · exact hs k (by omega)

/-- A return leaves a part of the stack. -/
theorem execRet_keeps_stackBounded {s t : State} (hs : s.StackBounded) (h : execRet s = .next t) : t.StackBounded := by
  obtain ⟨n, hn, hsp, rfl⟩ := execRet_next h
  intro k hk
  simp only [State.setPc_sp, State.setPc_stack] at hk ⊢
  exact hs k (by omega)

/-- An instruction fetched within memory keeps the stack's entries fetchable: only a call and a return write it. -/
theorem exec_keeps_stackBounded {i : Instr} {s t : State} (hpc : s.pc.toNat ≤ 0xFFE) (hs : s.StackBounded)
    (h : exec i s = .next t) : t.StackBounded := by
  obtain ⟨-, hsp, hstack, -⟩ := dedicatedLocationsWrittenOnlyAsListed i s t h
  obtain ⟨nnn, rfl⟩ | hcall := em (∃ nnn, i = .call nnn)
  · exact execCall_keeps_stackBounded hpc hs h
  · obtain rfl | hret := em (i = .ret)
    · exact execRet_keeps_stackBounded hs h
    · have hsp : t.sp = s.sp := by simpa [hcall, hret] using hsp
      have hstack : t.stack = s.stack := by simpa [hcall] using hstack
      unfold State.StackBounded
      rw [hsp, hstack]
      exact hs

/-! ### The pending wait -/

/-- Family F answers Fx0A for the low byte 0x0A alone. -/
theorem decodeFamilyF_ldVxK {op : Word} {f : Fields} {r : Nibble} (h : decodeFamilyF op f = .instr (.ldVxK r)) :
    f.x = r ∧ f.kk = 0x0A := by
  unfold decodeFamilyF at h
  split at h <;> cases h
  exact ⟨rfl, BitVec.eq_of_toNat_eq ‹_›⟩

/-- A word that decodes to Fx0A is of family F. -/
theorem decodeFields_ldVxK {op : Word} {f : Fields} {r : Nibble} (h : decodeFields op f = .instr (.ldVxK r)) :
    f.t = 0xF ∧ decodeFamilyF op f = .instr (.ldVxK r) := by
  unfold decodeFields decodeFamily0 decodeFamily8 decodeFamilyE at h
  split at h
  case h_16 =>
    have hlt := f.t.isLt
    refine ⟨BitVec.eq_of_toNat_eq (show f.t.toNat = 15 from ?_), h⟩
    simp only [imp_false] at *
    omega
  all_goals
    repeat' split at h
    all_goals cases h

/-- A word that decodes to Fx0A is the word of that instruction. -/
theorem eq_encode_of_decode_ldVxK {op : Word} {r : Nibble} (h : decode op = .instr (.ldVxK r)) :
    op = encode (.ldVxK r) := by
  obtain ⟨ht, hF⟩ := decodeFields_ldVxK h
  obtain ⟨hx, hkk⟩ := decodeFamilyF_ldVxK hF
  rw [word_eq_txkk op, ht, hx, hkk]
  rfl

/-- An instruction leaves a wait pending only as the Fx0A that has just been fetched, with its word still at PC. -/
theorem exec_leaves_wait {i : Instr} {s t : State} {op : Word} {r : Nibble} (hm : s.mode = .free) (hf : s.fetch = .ok op)
    (hd : decode op = .instr i) (h : exec i s = .next t) (hr : t.mode = .awaitingKey r) :
    t.fetch = .ok (encode (.ldVxK r)) := by
  obtain ⟨-, -, -, -, -, hmode | ⟨x, rfl⟩, -⟩ := dedicatedLocationsWrittenOnlyAsListed i s t h
  · rw [hmode, hm] at hr
    cases hr
  · obtain ⟨k, -, rfl⟩ | ⟨-, rfl⟩ := execLdVxK_next h
    · cases hm.symm.trans hr
    · cases hr
      rw [← eq_encode_of_decode_ldVxK hd, ← hf]
      exact State.fetch_congr rfl rfl rfl

/-! ### The invariant -/

/-- The invariant reads memory, PC, the stack, MODE and the parameters alone. -/
theorem State.Inv.congr {s t : State} (h : s.Inv) (hmem : t.mem = s.mem) (hcfg : t.cfg = s.cfg) (hpc : t.pc = s.pc)
    (hsp : t.sp = s.sp) (hstack : t.stack = s.stack) (hmode : t.mode = s.mode) : t.Inv where
  memory := by rw [hcfg, hmem]; exact h.memory
  pcBound := by rw [hpc]; exact h.pcBound
  stackBound := by rw [hsp, hstack]; exact h.stackBound
  waiting := by rw [hmode, State.fetch_congr hmem hpc hcfg]; exact h.waiting

theorem State.Inv.halt {s : State} (h : s.Inv) (f : Fault) : (s.halt f).Inv := h.congr rfl rfl rfl rfl rfl rfl

theorem State.Inv.endCycle {s : State} (h : s.Inv) : s.endCycle.Inv :=
  h.congr s.endCycle_mem s.endCycle_cfg s.endCycle_pc s.endCycle_sp s.endCycle_stack s.endCycle_mode

/-- Going past a fetched instruction, with no wait pending, keeps the invariant. -/
theorem State.Inv.advance {s : State} (h : s.Inv) (hm : s.mode = .free) (hpc : s.pc.toNat ≤ 0xFFE) : s.advance.Inv where
  memory := h.memory
  pcBound := (State.advance_pc_le hpc).trans (by decide)
  stackBound := h.stackBound
  waiting r hr := by cases hm.symm.trans hr

/-- A register written and a wait taken back keep the invariant. -/
theorem State.Inv.setReg_free {s : State} (h : s.Inv) (x : Nibble) (b : Byte) : ((s.setReg x b).setMode .free).Inv where
  memory := h.memory
  pcBound := h.pcBound
  stackBound := h.stackBound
  waiting r hr := by cases hr

/-- The cycle of a pending wait keeps the invariant: its Fx0A stands at PC, so PC is an address of memory. -/
theorem resolveWait_keeps_inv {s : State} {r : Nibble} (h : s.Inv) (hm : s.mode = .awaitingKey r) :
    (resolveWait r s).Inv := by
  obtain ⟨hpc, -⟩ := State.fetch_eq_ok.1 (h.waiting r hm)
  obtain ⟨k, -, hr⟩ | ⟨-, hr⟩ := resolveWait_cases r s
  · rw [hr]
    exact (h.setReg_free r (keyByte k)).advance rfl hpc
  · rwa [hr]

/-- A fetched instruction keeps the invariant. -/
theorem exec_keeps_inv {i : Instr} {s t : State} {op : Word} (hinv : s.Inv) (hm : s.mode = .free) (hf : s.fetch = .ok op)
    (hd : decode op = .instr i) (h : exec i s = .next t) : t.Inv := by
  obtain ⟨hpc, -⟩ := State.fetch_eq_ok.1 hf
  exact
    { memory := exec_keeps_wf hinv.memory h
      pcBound := exec_pc_le hpc hinv.stackBound h
      stackBound := exec_keeps_stackBounded hpc hinv.stackBound h
      waiting := fun _ hr => exec_leaves_wait hm hf hd h hr }

/-- Settles O16, by everything the next state of a step can be. -/
theorem stepKeepsInvariant : Obligations.StepKeepsInvariant := by
  intro s t hinv h
  obtain rfl | ⟨f, rfl⟩ | ⟨u, rfl, ⟨r, hm, rfl⟩ | ⟨hm, op, hf, ⟨-, rfl⟩ | ⟨i, hd, hi⟩⟩⟩ := step_next_cases h
  · exact hinv
  · exact hinv.halt f
  · exact (resolveWait_keeps_inv hinv hm).endCycle
  · exact (hinv.advance hm (State.fetch_eq_ok.1 hf).1).endCycle
  · exact (exec_keeps_inv hinv hm hf hd hi).endCycle

end Sys2Proof.Machine
end

section
/-! PROOFS. The encoding (spec 30_encoding.md): the decoder on a word written by its fields, the two round trips of R83,
and the rows of the opcode map. -/

namespace Sys2Proof

/-! ### The decoder on a word written by its fields (R81) -/

/-- The decoder reads `tttt nnnnnnnnnnnn` by `t` and `nnn`. -/
theorem decode_tnnn (t : Nibble) (nnn : Addr12) :
    decode (t ++ nnn) = decodeFields (t ++ nnn) { fieldsOf (t ++ nnn : Word) with t := t, nnn := nnn } := by
  have ht := fieldsOf_tnnn_t t nnn
  have hnnn := fieldsOf_tnnn_nnn t nnn
  generalize (t ++ nnn : Word) = op at ht hnnn ⊢
  subst ht hnnn
  rfl

/-- The decoder reads `tttt xxxx kkkkkkkk` by `t`, `x` and `kk`. -/
theorem decode_txkk (t x : Nibble) (kk : Byte) :
    decode (t ++ x ++ kk) = decodeFields (t ++ x ++ kk) { fieldsOf (t ++ x ++ kk : Word) with t := t, x := x, kk := kk } := by
  have ht := fieldsOf_txkk_t t x kk
  have hx := fieldsOf_txkk_x t x kk
  have hkk := fieldsOf_txkk_kk t x kk
  generalize (t ++ x ++ kk : Word) = op at ht hx hkk ⊢
  subst ht hx hkk
  rfl

/-- The decoder reads `tttt xxxx yyyy nnnn` by its four nibbles. -/
theorem decode_txyn (t x y n : Nibble) :
    decode (t ++ x ++ y ++ n) = decodeFields (t ++ x ++ y ++ n) ⟨t, x, y, n, y ++ n, x ++ y ++ n⟩ := by
  rw [decode, fieldsOf_txyn]

/-! ### The round trips -/

/-- Settles O1, by the shape of the instruction's word: two fixed words; an address; a register and a byte; two registers
and a nibble. -/
theorem decodeInvertsEncode : Obligations.DecodeInvertsEncode := by
  intro i
  cases i
  case cls | ret => rfl
  case jp nnn | call nnn | ldI nnn | jpV0 nnn => exact decode_tnnn _ nnn
  case seImm x kk | sneImm x kk | ldImm x kk | addImm x kk | rnd x kk => exact decode_txkk _ x kk
  case skp x | sknp x | ldVxDt x | ldVxK x | ldDtVx x | ldStVx x | addI x | ldF x | ldB x | storeRegs x | loadRegs x =>
    exact decode_txkk _ x _
  case seReg x y | sneReg x y | ldReg x y | orReg x y | andReg x y | xorReg x y | addReg x y | subReg x y | shr x y |
      subnReg x y | shl x y =>
    exact decode_txyn _ x y _
  case drw x y n => exact decode_txyn _ x y n

/-- A word of a family is the family and the word's address. -/
theorem tnnn_of_family {op : Word} {t : Nibble} (ht : (fieldsOf op).t.toNat = t.toNat) : t ++ (fieldsOf op).nnn = op := by
  rw [← BitVec.eq_of_toNat_eq ht]
  exact (word_eq_tnnn op).symm

/-- A word of a family is the family and the word's register and byte. -/
theorem txkk_of_family {op : Word} {t : Nibble} (ht : (fieldsOf op).t.toNat = t.toNat) :
    t ++ (fieldsOf op).x ++ (fieldsOf op).kk = op := by
  rw [← BitVec.eq_of_toNat_eq ht]
  exact (word_eq_txkk op).symm

/-- A word of a family is the family and the word's other nibbles. -/
theorem txyn_of_family {op : Word} {t : Nibble} (ht : (fieldsOf op).t.toNat = t.toNat) :
    t ++ (fieldsOf op).x ++ (fieldsOf op).y ++ (fieldsOf op).n = op := by
  rw [← BitVec.eq_of_toNat_eq ht]
  exact (word_eq_txyn op).symm

/-- A word of a family with a sub-case byte. -/
theorem txkk_of_byte {op : Word} {t : Nibble} {kk : Byte} (ht : (fieldsOf op).t.toNat = t.toNat)
    (hkk : (fieldsOf op).kk.toNat = kk.toNat) : t ++ (fieldsOf op).x ++ kk = op := by
  rw [← BitVec.eq_of_toNat_eq hkk]
  exact txkk_of_family ht

/-- A word of a family with a sub-case nibble. -/
theorem txyn_of_nibble {op : Word} {t n : Nibble} (ht : (fieldsOf op).t.toNat = t.toNat)
    (hn : (fieldsOf op).n.toNat = n.toNat) : t ++ (fieldsOf op).x ++ (fieldsOf op).y ++ n = op := by
  rw [← BitVec.eq_of_toNat_eq hn]
  exact txyn_of_family ht

/-- Family 0 answers the instruction of the word it matches. -/
theorem encode_of_decodeFamily0 {op : Word} {i : Instr} (h : decodeFamily0 op = .instr i) : encode i = op := by
  unfold decodeFamily0 at h
  split at h <;> cases h
  case h_1 hop => exact BitVec.eq_of_toNat_eq hop.symm
  case h_2 hop => exact BitVec.eq_of_toNat_eq hop.symm

/-- Family 8 answers an instruction of the low nibble it matches. -/
theorem encode_of_decodeFamily8 {op : Word} {i : Instr} (ht : (fieldsOf op).t.toNat = 0x8)
    (h : decodeFamily8 op (fieldsOf op) = .instr i) : encode i = op := by
  unfold decodeFamily8 at h
  split at h <;> cases h
  all_goals exact txyn_of_nibble ht ‹_›

/-- Family E answers an instruction of the low byte it matches. -/
theorem encode_of_decodeFamilyE {op : Word} {i : Instr} (ht : (fieldsOf op).t.toNat = 0xE)
    (h : decodeFamilyE op (fieldsOf op) = .instr i) : encode i = op := by
  unfold decodeFamilyE at h
  split at h <;> cases h
  all_goals exact txkk_of_byte ht ‹_›

/-- Family F answers an instruction of the low byte it matches. -/
theorem encode_of_decodeFamilyF {op : Word} {i : Instr} (ht : (fieldsOf op).t.toNat = 0xF)
    (h : decodeFamilyF op (fieldsOf op) = .instr i) : encode i = op := by
  unfold decodeFamilyF at h
  split at h <;> cases h
  all_goals exact txkk_of_byte ht ‹_›

/-- Settles O2, by the family: its word is put together again from the fields that the instruction took over and the ones
that selected it. -/
theorem encodeInvertsDecode : Obligations.EncodeInvertsDecode := by
  intro op i h
  unfold decode decodeFields at h
  split at h
  case h_1 => exact encode_of_decodeFamily0 h
  -- 1nnn, 2nnn, Annn, Bnnn
  case h_2 ht | h_3 ht | h_11 ht | h_12 ht =>
    cases h
    exact tnnn_of_family ht
  -- 3xkk, 4xkk, 6xkk, 7xkk, Cxkk
  case h_4 ht | h_5 ht | h_7 ht | h_8 ht | h_13 ht =>
    cases h
    exact txkk_of_family ht
  -- 5xy0, 9xy0
  case h_6 ht | h_10 ht =>
    split at h <;> cases h
    exact txyn_of_nibble ht (congrArg BitVec.toNat ‹_›)
  case h_9 ht => exact encode_of_decodeFamily8 ht h
  -- Dxyn
  case h_14 ht =>
    cases h
    exact txyn_of_family ht
  case h_15 ht => exact encode_of_decodeFamilyE ht h
  case h_16 =>
    have ht : (fieldsOf op).t.toNat = 0xF := by
      have := (fieldsOf op).t.isLt
      simp only [imp_false] at *
      omega
    exact encode_of_decodeFamilyF ht h

/-! ### The rows of the opcode map -/

/-- Where a row fixes a field of the word, the words the row covers have the pattern's value there. -/
theorem field_of_covers {r : OpcodeRow} {op : Word} {lo len : Nat} (h : r.covers op = true)
    (hm : r.mask.extractLsb' lo len = BitVec.allOnes len) : op.extractLsb' lo len = r.pattern.extractLsb' lo len := by
  have h : op &&& r.mask = r.pattern := beq_iff_eq.1 h
  rw [← h, BitVec.extractLsb'_and, hm, BitVec.and_allOnes]

/-- A row that fixes the family covers words of its pattern's family alone. -/
theorem family_of_covers {r : OpcodeRow} {op : Word} (h : r.covers op = true)
    (ht : (fieldsOf r.mask).t = BitVec.allOnes 4) : (fieldsOf op).t.toNat = (fieldsOf r.pattern).t.toNat :=
  congrArg BitVec.toNat (field_of_covers h ht)

/-- A row that fixes the low byte covers words of its pattern's low byte alone. -/
theorem byte_of_covers {r : OpcodeRow} {op : Word} (h : r.covers op = true)
    (hkk : (fieldsOf r.mask).kk = BitVec.allOnes 8) : (fieldsOf op).kk.toNat = (fieldsOf r.pattern).kk.toNat :=
  congrArg BitVec.toNat (field_of_covers h hkk)

/-- A row that fixes the low nibble covers words of its pattern's low nibble alone. -/
theorem nibble_of_covers {r : OpcodeRow} {op : Word} (h : r.covers op = true)
    (hn : (fieldsOf r.mask).n = BitVec.allOnes 4) : (fieldsOf op).n.toNat = (fieldsOf r.pattern).n.toNat :=
  congrArg BitVec.toNat (field_of_covers h hn)

/-- A word that matches an instruction's row decodes to an instruction of that row. -/
theorem decode_of_covers {i : Instr} {op : Word} (h : (rowOf i).covers op = true) :
    ∃ j, decode op = .instr j ∧ rowOf j = rowOf i := by
  cases i <;> dsimp only [rowOf] at h
  case cls | ret =>
    have hop := field_of_covers (lo := 0) (len := 16) h rfl
    rw [BitVec.extractLsb'_eq_self] at hop
    subst hop
    exact ⟨_, rfl, rfl⟩
  case jp | call | ldI | jpV0 =>
    have ht := family_of_covers h rfl
    rw [← tnnn_of_family ht, decode_tnnn]
    exact ⟨_, rfl, rfl⟩
  case seImm | sneImm | ldImm | addImm | rnd =>
    have ht := family_of_covers h rfl
    rw [← txkk_of_family ht, decode_txkk]
    exact ⟨_, rfl, rfl⟩
  case skp | sknp | ldVxDt | ldVxK | ldDtVx | ldStVx | addI | ldF | ldB | storeRegs | loadRegs =>
    have ht := family_of_covers h rfl
    have hkk := byte_of_covers h rfl
    rw [← txkk_of_byte ht hkk, decode_txkk]
    exact ⟨_, rfl, rfl⟩
  case seReg | sneReg | ldReg | orReg | andReg | xorReg | addReg | subReg | shr | subnReg | shl =>
    have ht := family_of_covers h rfl
    have hn := nibble_of_covers h rfl
    rw [← txyn_of_nibble ht hn, decode_txyn]
    exact ⟨_, rfl, rfl⟩
  case drw =>
    have ht := family_of_covers h rfl
    rw [← txyn_of_family ht, decode_txyn]
    exact ⟨_, rfl, rfl⟩

open Laws in
/-- The word of an instruction matches the instruction's row. -/
theorem covers_encode (i : Instr) : (rowOf i).covers (encode i) = true := by
  cases i
  exacts [InRow.cls, InRow.ret, InRow.jp _, InRow.call _, InRow.seImm _ _, InRow.sneImm _ _, InRow.seReg _ _,
    InRow.ldImm _ _, InRow.addImm _ _, InRow.ldReg _ _, InRow.orReg _ _, InRow.andReg _ _, InRow.xorReg _ _,
    InRow.addReg _ _, InRow.subReg _ _, InRow.shr _ _, InRow.subnReg _ _, InRow.shl _ _, InRow.sneReg _ _, InRow.ldI _,
    InRow.jpV0 _, InRow.rnd _ _, InRow.drw _ _ _, InRow.skp _, InRow.sknp _, InRow.ldVxDt _, InRow.ldVxK _,
    InRow.ldDtVx _, InRow.ldStVx _, InRow.addI _, InRow.ldF _, InRow.ldB _, InRow.storeRegs _, InRow.loadRegs _]

/-- A word matches the row of the instruction it decodes to. -/
theorem covers_of_decode {op : Word} {i : Instr} (h : decode op = .instr i) : (rowOf i).covers op = true := by
  rw [← encodeInvertsDecode op i h]
  exact covers_encode i

/-- Every instruction's row is one of the 34. -/
theorem rowOf_mem_opcodeRows (i : Instr) : rowOf i ∈ opcodeRows := by
  cases i
  all_goals simp [opcodeRows, rowOf]

/-- Each of the 34 rows is an instruction's. -/
theorem exists_rowOf_of_mem {r : OpcodeRow} (hr : r ∈ opcodeRows) : ∃ i, r = rowOf i := by
  revert r
  simp [opcodeRows]

/-- A word that matches one of the 34 rows decodes to an instruction of that row. -/
theorem decode_of_mem_opcodeRows {r : OpcodeRow} {op : Word} (hr : r ∈ opcodeRows) (h : r.covers op = true) :
    ∃ i, decode op = .instr i ∧ rowOf i = r := by
  obtain ⟨i, rfl⟩ := exists_rowOf_of_mem hr
  exact decode_of_covers h

/-- Settles O3: a word decodes to one instruction at most, so it matches one row at most. -/
theorem decoderIsTheOpcodeMap : Obligations.DecoderIsTheOpcodeMap := by
  refine ⟨rfl, fun op r hr q hq hcr hcq => ?_, fun op i hd => ⟨rowOf_mem_opcodeRows i, covers_of_decode hd⟩,
    fun op => ⟨fun hd r hr => ?_, fun hno => ?_⟩⟩
  · obtain ⟨i, hi, rfl⟩ := decode_of_mem_opcodeRows hr hcr
    obtain ⟨j, hj, rfl⟩ := decode_of_mem_opcodeRows hq hcq
    cases hi.symm.trans hj
    rfl
  · by_contra hc
    obtain ⟨i, hi, -⟩ := decode_of_mem_opcodeRows hr (Bool.eq_true_of_not_eq_false hc)
    cases hi.symm.trans hd
  · cases hd : decode op with
    | instr i =>
      have hc := covers_of_decode hd
      rw [hno _ (rowOf_mem_opcodeRows i)] at hc
      cases hc
    | unrecognised op' => rw [decode_unrecognised hd]

/-- Settles O4: eighteen of the words are the words of their instructions, and 0123 is none of family 0's two. -/
theorem specWordsDecodeAsWritten : Obligations.SpecWordsDecodeAsWritten :=
  have h := decodeInvertsEncode
  ⟨h .cls, h .ret, h (.jp 0xABC), h (.call 0x300), h (.seImm 0xF 0x01), h (.sneImm 3 0x00), h (.seReg 1 2),
    h (.ldImm 0xA 0x42), h (.addImm 1 0x01), h (.subnReg 1 2), h (.sneReg 4 4), h (.ldI 0x208), h (.jpV0 0x300),
    h (.rnd 3 0xF0), h (.drw 0 1 3), h (.skp 0), h (.ldVxK 5), h (.storeRegs 1), rfl⟩

end Sys2Proof
end

section
/-! PROOFS. The cycle (spec 40_cycle.md): the unrecognised word (R106), and the key wait as the only cycle that does not
complete (R109). -/

namespace Sys2Proof.Machine

/-- Settles O7, by the cycle of a fetched word. -/
theorem unrecognisedWordOnlyAdvancesPc : Obligations.UnrecognisedWordOnlyAdvancesPc := by
  intro s op ⟨hrun, hmode⟩ hfetch hdec
  rw [step_fetched hrun hmode hfetch, hdec]
  rfl

/-! ### The cycle of a key wait -/

theorem noKeyPressed_iff {s : State} : NoKeyPressed s ↔ s.lowestPressed = none := by
  obtain ⟨hlow, hno⟩ | ⟨k, hlow, hk, -⟩ := s.lowestPressed_cases
  · exact iff_of_true hno hlow
  · rw [hlow]
    exact iff_of_false (fun hno => Bool.false_ne_true ((hno k).symm.trans hk)) nofun

/-- The cycle of an Fx0A that finds no key, fetched or pending, only leaves the wait pending. -/
theorem step_keyWait_no_key {s : State} {r : Nibble} (hrun : s.run = .running) (hwait : RunsKeyWait s r)
    (hno : NoKeyPressed s) : step s = .next (s.setMode (.awaitingKey r)).endCycle := by
  have hlow := noKeyPressed_iff.1 hno
  obtain hmode | ⟨hmode, op, hfetch, hdec⟩ := hwait
  · have hsame : s.setMode (.awaitingKey r) = s := by rw [← hmode]; rfl
    rw [step_waiting hrun hmode, resolveWait, hlow, hsame]
  · have hexec : exec (.ldVxK r) s = .next (s.setMode (.awaitingKey r)) := by
      show execLdVxK r s = _
      rw [execLdVxK, hlow]
    rw [step_fetched hrun hmode hfetch, hdec, execDecoded, hexec, State.settle]

/-- A wait that is pending after a resolution was pending before it, and found no key. -/
theorem noKeyPressed_of_resolveWait {s : State} {q r : Nibble}
    (hr : (resolveWait q s).mode = .awaitingKey r) : NoKeyPressed s ∧ s.mode = .awaitingKey r := by
  obtain ⟨k, -, hk⟩ | ⟨hlow, hsame⟩ := resolveWait_cases q s
  · rw [hk] at hr
    cases hr
  · rw [hsame] at hr
    exact ⟨noKeyPressed_iff.2 hlow, hr⟩

/-- An instruction that makes a wait pending is Fx0A, and found no key. -/
theorem noKeyPressed_of_exec {i : Instr} {s t : State} {r : Nibble} (hmode : s.mode = .free) (h : exec i s = .next t)
    (hr : t.mode = .awaitingKey r) : NoKeyPressed s ∧ i = .ldVxK r := by
  obtain ⟨-, -, -, -, -, hkept | ⟨x, rfl⟩, -⟩ := dedicatedLocationsWrittenOnlyAsListed i s t h
  · cases hmode.symm.trans (hkept.symm.trans hr)
  · obtain ⟨k, -, rfl⟩ | ⟨hlow, rfl⟩ := execLdVxK_next h
    · cases hmode.symm.trans hr
    · cases hr
      exact ⟨noKeyPressed_iff.2 hlow, rfl⟩

/-- A step of a running block that leaves a wait pending is the cycle of that Fx0A, and found no key. -/
theorem keyWait_of_step_leaves_wait {s t : State} {r : Nibble} (hrun : s.run = .running) (h : step s = .next t)
    (hr : t.mode = .awaitingKey r) : NoKeyPressed s ∧ RunsKeyWait s r := by
  cases hmode : s.mode with
  | awaitingKey q =>
    cases (step_waiting hrun hmode).symm.trans h
    rw [State.endCycle_mode] at hr
    obtain ⟨hno, hsr⟩ := noKeyPressed_of_resolveWait hr
    exact ⟨hno, .inl hsr⟩
  | free =>
    obtain rfl | ⟨f, rfl⟩ | ⟨u, rfl, ⟨q, hq, -⟩ | ⟨-, op, hfetch, ⟨-, rfl⟩ | ⟨i, hdec, hexec⟩⟩⟩ := step_next_cases h
    · cases hmode.symm.trans hr
    · cases hmode.symm.trans hr
    · cases hmode.symm.trans hq
    · rw [State.endCycle_mode] at hr
      cases hmode.symm.trans hr
    · rw [State.endCycle_mode] at hr
      obtain ⟨hno, rfl⟩ := noKeyPressed_of_exec hmode hexec hr
      exact ⟨hno, .inr ⟨hmode, op, hfetch, hdec⟩⟩

/-- Settles O14: the cycle of a key wait that finds no key is the only one to leave a wait pending, and its next state is
known. -/
theorem onlyTheKeyWaitSuspends : Obligations.OnlyTheKeyWaitSuspends := by
  constructor
  · intro s t r hrun h hr
    obtain ⟨hno, hwait⟩ := keyWait_of_step_leaves_wait hrun h hr
    cases (step_keyWait_no_key hrun hwait hno).symm.trans h
    refine ⟨hno, hwait, by simp, step_waiting ?_ hr⟩
    simpa using hrun
  · intro s r hrun hwait hno
    refine ⟨_, step_keyWait_no_key hrun hwait hno, ?_, by simp, by simp⟩
    simpa using hrun

end Sys2Proof.Machine
end

section
/-! PROOFS. Control flow (spec 41_control_flow.md): the jump to an address (R122) and the skips on an immediate (R124,
R125). -/

namespace Sys2Proof.Machine

/-! ### What a control transfer leaves unchanged -/

theorem onlyPc_setPc (s : State) (a : Word) : OnlyPc s (s.setPc a) :=
  ⟨rfl, fun j _ => s.reg_setPc a j, s.byteAt_setPc a⟩

theorem onlyPc_skipIf (s : State) (c : Bool) : OnlyPc s (s.skipIf c) := onlyPc_setPc s _

/-! ### Where a skip on a comparison of bytes goes -/

theorem State.skipIf_beq_pc (s : State) (a b : Byte) :
    (s.skipIf (a == b)).pc = if a = b then s.pc + 4 else s.pc + 2 := by
  rw [State.skipIf_pc]
  simp only [beq_iff_eq]

theorem State.skipIf_bne_pc (s : State) (a b : Byte) :
    (s.skipIf (a != b)).pc = if a = b then s.pc + 2 else s.pc + 4 := by
  rw [State.skipIf_pc]
  simp only [bne_iff_ne, ne_eq, ite_not]

/-! ### The obligations -/

/-- Settles O25: the address is widened to `PC` without loss. -/
theorem jumpSetsPcToItsAddress : Obligations.JumpSetsPcToItsAddress := by
  intro s nnn
  have hpc : (s.setPc (nnn.setWidth 16)).pc.toNat = nnn.toNat :=
    BitVec.toNat_setWidth_of_le (by decide)
  exact ⟨decodeInvertsEncode (.jp nnn), _, rfl, hpc, onlyPc_setPc s _⟩

/-- Settles O29: each form is a `skipIf` on its comparison, which moves `PC` alone. -/
theorem immediateSkipsCompareVx : Obligations.ImmediateSkipsCompareVx := by
  intro s x kk
  refine ⟨decodeInvertsEncode (.seImm x kk), decodeInvertsEncode (.sneImm x kk), ?equal, ?unequal⟩
  case equal => exact ⟨_, rfl, s.skipIf_beq_pc (s.reg x) kk, onlyPc_skipIf s _⟩
  case unequal => exact ⟨_, rfl, s.skipIf_bne_pc (s.reg x) kk, onlyPc_skipIf s _⟩

end Sys2Proof.Machine
end

section
/-! PROOFS. Register arithmetic and logic (spec 42_alu.md): the immediates (R141, R142), assignment and the bitwise
operations (R144 to R147), the sum and the difference with their flags (R148, R149), and the random byte (R156). -/

namespace Sys2Proof.Machine

/-! ### What a result in a register changes, with and without a flag -/

theorem onlyRegs_setReg_advance (s : State) (x : Nibble) (b : Byte) : OnlyRegs [x] s (s.setReg x b).advance := by
  refine ⟨rfl, fun j hj => ?_, fun _ => rfl⟩
  rw [State.reg_advance, State.reg_setReg, if_neg (by simpa using hj)]

theorem onlyRegs_setRegFlag_advance (s : State) (x : Nibble) (b : Byte) (f : Bool) :
    OnlyRegs [x, vf] s (s.setRegFlag x b f).advance := by
  refine ⟨rfl, fun j hj => ?_, fun _ => rfl⟩
  rw [State.reg_advance, State.reg_setRegFlag_other (by simpa using hj)]

theorem State.reg_setRegFlag_dest {x : Nibble} (hx : x ≠ vf) (s : State) (b : Byte) (f : Bool) :
    (s.setRegFlag x b f).reg x = b := by
  rw [State.reg_setRegFlag, if_neg hx, if_pos rfl]

@[simp] theorem State.reg_setRegFlag_vf (s : State) (x : Nibble) (b : Byte) (f : Bool) :
    (s.setRegFlag x b f).reg vf = flagByte f := by
  rw [State.reg_setRegFlag, if_pos rfl]

/-! ### Results and flags as numbers -/

/-- The flag of a comparison of numbers. -/
theorem flagByte_decide (p : Prop) [Decidable p] : flagByte (decide p) = if p then 1 else 0 := by
  simp only [flagByte, decide_eq_true_eq]

/-- The difference of two bytes is the integer difference mod 256. -/
theorem toNat_sub_eq_emod (a b : Byte) : ((a - b).toNat : Int) = ((a.toNat : Int) - b.toNat) % 256 := by
  have := b.isLt
  rw [BitVec.toNat_sub]
  omega

/-! ### The obligations -/

/-- Settles O32: both words decode, and each form is one write of `V[x]`. -/
theorem immediateLoadAndAdd : Obligations.ImmediateLoadAndAdd := by
  intro s x kk
  refine ⟨decodeInvertsEncode (.ldImm x kk), decodeInvertsEncode (.addImm x kk), ?load, ?add⟩
  case load => exact ⟨_, rfl, s.reg_setReg_same x kk, rfl, onlyRegs_setReg_advance s x _⟩
  case add =>
    refine ⟨_, rfl, ?_, rfl, onlyRegs_setReg_advance s x _⟩
    rw [State.reg_advance, State.reg_setReg_same, BitVec.toNat_add]

/-- Settles O33: each form is one write of `V[x]`, whose bits are those of the operation on words. -/
theorem moveAndBitwiseOperations : Obligations.MoveAndBitwiseOperations := by
  intro s x y
  refine ⟨?move, ?or, ?and, ?xor⟩
  case move => exact ⟨_, rfl, s.reg_setReg_same x _, rfl, onlyRegs_setReg_advance s x _⟩
  case or =>
    refine ⟨_, rfl, fun b => ?_, rfl, onlyRegs_setReg_advance s x _⟩
    rw [State.reg_advance, State.reg_setReg_same, BitVec.getLsbD_or]
  case and =>
    refine ⟨_, rfl, fun b => ?_, rfl, onlyRegs_setReg_advance s x _⟩
    rw [State.reg_advance, State.reg_setReg_same, BitVec.getLsbD_and]
  case xor =>
    refine ⟨_, rfl, fun b => ?_, rfl, onlyRegs_setReg_advance s x _⟩
    rw [State.reg_advance, State.reg_setReg_same, BitVec.getLsbD_xor]

/-- Settles O34: the sum is written before its carry, which VF keeps. -/
theorem addSetsCarry : Obligations.AddSetsCarry := by
  intro s x y
  refine ⟨_, rfl, fun hx => ?sum, ?carry, rfl, onlyRegs_setRegFlag_advance s x _ _⟩
  case sum => rw [State.reg_advance, State.reg_setRegFlag_dest hx, BitVec.toNat_add]
  case carry => rw [State.reg_advance, State.reg_setRegFlag_vf, carryOut, flagByte_decide]

/-- Settles O35: the difference is written before its flag, which is the strict comparison (90_conflicts.md C3). -/
theorem subtractFlagsStrictlyGreater : Obligations.SubtractFlagsStrictlyGreater := by
  intro s x y
  refine ⟨_, rfl, fun hx => ?difference, ?greater, rfl, onlyRegs_setRegFlag_advance s x _ _⟩
  case difference => rw [State.reg_advance, State.reg_setRegFlag_dest hx, toNat_sub_eq_emod]
  case greater => rw [State.reg_advance, State.reg_setRegFlag_vf, leftGreater, flagByte_decide]

/-- Settles O38: one draw, then one write of `V[x]`, so the frame is that of a write after the draw; where the mask has
a 0 bit, the masked byte has one. -/
theorem randomByteIsMasked : Obligations.RandomByteIsMasked := by
  intro s x kk
  have hreg : (s.drawn.setReg x (s.nextRandom &&& kk)).advance.reg x = s.nextRandom &&& kk :=
    s.drawn.reg_setReg_same x _
  obtain ⟨-, hregs, hmem⟩ := onlyRegs_setReg_advance s.drawn x (s.nextRandom &&& kk)
  refine ⟨decodeInvertsEncode (.rnd x kk), _, rfl, hreg, fun b hb => ?masked, rfl, rfl, hregs, hmem⟩
  case masked => rw [hreg, BitVec.getLsbD_and, hb, Bool.and_false]

end Sys2Proof.Machine
end

section
/-! PROOFS. The index register (spec 43_index_memory.md): the load of an address (R171). -/

namespace Sys2Proof.Machine

/-! ### What a write of the index register leaves unchanged -/

theorem setI_advance_frame (s : State) (a : Word) :
    (s.setI a).advance = { s with i := (s.setI a).advance.i, pc := (s.setI a).advance.pc } ∧
      SameRegsBut [] s (s.setI a).advance ∧ SameMemory s (s.setI a).advance := by
  refine ⟨rfl, fun j _ => ?regs, fun b => ?mem⟩
  case regs => rw [State.reg_advance, State.reg_setI]
  case mem => rw [State.byteAt_advance, State.byteAt_setI]

/-! ### The obligations -/

/-- Settles O39: one write of `I`, to which the address is widened without loss. -/
theorem loadIndexSetsI : Obligations.LoadIndexSetsI := by
  intro s nnn
  have hi : (s.setI (nnn.setWidth 16)).advance.i.toNat = nnn.toNat := by
    rw [State.advance_i, State.setI_i]
    exact BitVec.toNat_setWidth_of_le (by decide)
  exact ⟨decodeInvertsEncode (.ldI nnn), _, rfl, hi, rfl, setI_advance_frame s _⟩

end Sys2Proof.Machine
end

section
/-! PROOFS. The timers (spec 44_timers.md): the count down to 0 and what leaves a timer at 0 (R192), and the three timer
instructions (R197 to R199). -/

namespace Sys2Proof.Machine

/-! ### The count down -/

theorem countDown_zero : countDown 0 = 0 := rfl

theorem countDown_toNat_succ {b : Byte} (h : 0 < b.toNat) : (countDown b).toNat + 1 = b.toNat := by
  rw [countDown_toNat]
  omega

/-- The end of a cycle leaves `DT` at 0, whether or not it ticks. -/
theorem State.endCycle_dt_zero {s : State} (h : s.dt = 0) : s.endCycle.dt = 0 := by
  rw [State.endCycle_dt, h]
  cases s.cfg.tickMode with
  | coupled => exact countDown_zero
  | independent => rfl

/-- The end of a cycle leaves `ST` at 0, whether or not it ticks. -/
theorem State.endCycle_st_zero {s : State} (h : s.st = 0) : s.endCycle.st = 0 := by
  rw [State.endCycle_st, h]
  cases s.cfg.tickMode with
  | coupled => exact countDown_zero
  | independent => rfl

/-! ### What a step does to the timers -/

theorem resolveWait_timers (r : Nibble) (s : State) :
    (resolveWait r s).dt = s.dt ∧ (resolveWait r s).st = s.st := by
  obtain ⟨k, -, hr⟩ | ⟨-, hr⟩ := resolveWait_cases r s
  · rw [hr]
    exact ⟨rfl, rfl⟩
  · rw [hr]
    exact ⟨rfl, rfl⟩

/-- The next cycle fetches the word of an instruction. -/
def State.Fetches (s : State) (i : Instr) : Prop := s.ready ∧ ∃ op, s.fetch = .ok op ∧ decode op = .instr i

/-- Everything a step does to the timers: nothing, or the end of the cycle of a state in which each holds what it held,
unless the cycle's instruction writes it. -/
theorem step_timers_cases {s t : State} (h : step s = .next t) :
    (t.dt = s.dt ∧ t.st = s.st) ∨
    ∃ u : State, t = u.endCycle ∧
      (u.dt = s.dt ∨ ∃ x, s.Fetches (.ldDtVx x)) ∧ (u.st = s.st ∨ ∃ x, s.Fetches (.ldStVx x)) := by
  cases hrun : s.run with
  | halted f =>
    cases (step_halted hrun).symm.trans h
    exact .inl ⟨rfl, rfl⟩
  | running =>
    obtain rfl | ⟨f, rfl⟩ | ⟨u, rfl, ⟨r, -, rfl⟩ | ⟨hmode, op, hfetch, ⟨-, rfl⟩ | ⟨i, hdec, hexec⟩⟩⟩ :=
      step_next_cases h
    · exact .inl ⟨rfl, rfl⟩
    · exact .inl ⟨rfl, rfl⟩
    · obtain ⟨hdt, hst⟩ := resolveWait_timers r s
      exact .inr ⟨_, rfl, .inl hdt, .inl hst⟩
    · exact .inr ⟨_, rfl, .inl rfl, .inl rfl⟩
    · have hi : s.Fetches i := ⟨⟨hrun, hmode⟩, op, hfetch, hdec⟩
      obtain ⟨-, -, -, hdt, hst, -⟩ := dedicatedLocationsWrittenOnlyAsListed i s u hexec
      exact .inr ⟨u, rfl, hdt.imp_right fun ⟨x, hx⟩ => ⟨x, hx ▸ hi⟩,
        hst.imp_right fun ⟨x, hx⟩ => ⟨x, hx ▸ hi⟩⟩

/-! ### What a write of a timer leaves unchanged -/

theorem setDt_advance_frame (s : State) (b : Byte) :
    (s.setDt b).advance = { s with dt := (s.setDt b).advance.dt, pc := (s.setDt b).advance.pc } ∧
      SameRegsBut [] s (s.setDt b).advance ∧ SameMemory s (s.setDt b).advance := by
  refine ⟨rfl, fun j _ => ?regs, fun a => ?mem⟩
  case regs => rw [State.reg_advance, State.reg_setDt]
  case mem => rw [State.byteAt_advance, State.byteAt_setDt]

theorem setSt_advance_frame (s : State) (b : Byte) :
    (s.setSt b).advance = { s with st := (s.setSt b).advance.st, pc := (s.setSt b).advance.pc } ∧
      SameRegsBut [] s (s.setSt b).advance ∧ SameMemory s (s.setSt b).advance := by
  refine ⟨rfl, fun j _ => ?regs, fun a => ?mem⟩
  case regs => rw [State.reg_advance, State.reg_setSt]
  case mem => rw [State.byteAt_advance, State.byteAt_setSt]

/-! ### The obligations -/

/-- Settles O45: a tick is one count down of each timer, which keeps 0; a step that does not execute the timer's
instruction leaves the timer or ends a cycle with it as it was. -/
theorem timersCountDownToZeroAndStay : Obligations.TimersCountDownToZeroAndStay := by
  refine ⟨fun s => ⟨rfl, countDown_toNat_succ, ?dtZero, countDown_toNat_succ, ?stZero⟩, ?dtStep, ?stStep⟩
  case dtZero =>
    intro h
    rw [State.tickTimers_dt, h, countDown_zero]
  case stZero =>
    intro h
    rw [State.tickTimers_st, h, countDown_zero]
  case dtStep =>
    intro s t hzero hstep hnot
    obtain ⟨hdt, -⟩ | ⟨u, rfl, hdt | ⟨x, hready, op, hfetch, hdec⟩, -⟩ := step_timers_cases hstep
    · exact hdt.trans hzero
    · exact State.endCycle_dt_zero (hdt.trans hzero)
    · exact absurd hdec (hnot op x hready hfetch)
  case stStep =>
    intro s t hzero hstep hnot
    obtain ⟨-, hst⟩ | ⟨u, rfl, -, hst | ⟨x, hready, op, hfetch, hdec⟩⟩ := step_timers_cases hstep
    · exact hst.trans hzero
    · exact State.endCycle_st_zero (hst.trans hzero)
    · exact absurd hdec (hnot op x hready hfetch)

/-- Settles O46: the three words decode, and each form is one write, of `V[x]` or of a timer. -/
theorem timerInstructionsMoveTimers : Obligations.TimerInstructionsMoveTimers := by
  intro s x
  refine ⟨decodeInvertsEncode (.ldVxDt x), decodeInvertsEncode (.ldDtVx x), decodeInvertsEncode (.ldStVx x),
    ?readDt, ?writeDt, ?writeSt⟩
  case readDt => exact ⟨_, rfl, s.reg_setReg_same x s.dt, rfl, onlyRegs_setReg_advance s x _⟩
  case writeDt => exact ⟨_, rfl, rfl, rfl, setDt_advance_frame s _⟩
  case writeSt => exact ⟨_, rfl, rfl, rfl, setSt_advance_frame s _⟩

end Sys2Proof.Machine
end

section
/-! PROOFS. The display (spec 46_display.md): who writes it and the redraw flag (R230), the clear (R231), the draw with
its collision flag (R232 to R237), and the draw repeated. -/

namespace Sys2Proof.Machine

/-! ### What leaves the display and the redraw flag -/

@[simp] theorem State.storeBytes_display (s : State) (a : Nat) (bs : List Byte) :
    (s.storeBytes a bs).display = s.display := by
  rw [State.storeBytes_eq]
@[simp] theorem State.storeBytes_redraw (s : State) (a : Nat) (bs : List Byte) :
    (s.storeBytes a bs).redraw = s.redraw := by
  rw [State.storeBytes_eq]
@[simp] theorem State.setRegs_display (s : State) (k : Nat) (bs : List Byte) :
    (s.setRegs k bs).display = s.display := by
  rw [State.setRegs_eq]
@[simp] theorem State.setRegs_redraw (s : State) (k : Nat) (bs : List Byte) :
    (s.setRegs k bs).redraw = s.redraw := by
  rw [State.setRegs_eq]

/-- An instruction that does not draw leaves the display and the redraw flag. -/
theorem exec_display_of_not_draws {i : Instr} {s t : State} (hi : ¬Draws i) (h : exec i s = .next t) :
    t.display = s.display ∧ t.redraw = s.redraw := by
  cases i
  case cls => exact absurd (.inl rfl) hi
  case drw x y n => exact absurd (.inr ⟨x, y, n, rfl⟩) hi
  case ret =>
    obtain ⟨k, hk, -, rfl⟩ := execRet_next h
    exact ⟨rfl, rfl⟩
  case call nnn =>
    obtain ⟨hk, rfl⟩ := execCall_next h
    exact ⟨rfl, rfl⟩
  case skp x =>
    obtain ⟨p, -, rfl⟩ := execSkp_next h
    exact ⟨rfl, rfl⟩
  case sknp x =>
    obtain ⟨p, -, rfl⟩ := execSknp_next h
    exact ⟨rfl, rfl⟩
  case ldVxK x =>
    obtain ⟨k, -, rfl⟩ | ⟨-, rfl⟩ := execLdVxK_next h
    · exact ⟨rfl, rfl⟩
    · exact ⟨rfl, rfl⟩
  case ldB x =>
    obtain ⟨-, rfl⟩ := execLdB_next h
    exact ⟨s.storeBytes_display _ _, s.storeBytes_redraw _ _⟩
  case storeRegs x =>
    obtain ⟨-, rfl⟩ := execStoreRegs_next h
    exact ⟨s.storeBytes_display _ _, s.storeBytes_redraw _ _⟩
  case loadRegs x =>
    obtain ⟨-, rfl⟩ := execLoadRegs_next h
    exact ⟨s.setRegs_display _ _, s.setRegs_redraw _ _⟩
  all_goals
    cases h
    exact ⟨rfl, rfl⟩

/-- An instruction that draws sets the redraw flag. -/
theorem exec_redraw_of_draws {i : Instr} {s t : State} (hi : Draws i) (h : exec i s = .next t) : t.redraw = true := by
  obtain rfl | ⟨x, y, n, rfl⟩ := hi
  · cases h
    rfl
  · obtain ⟨-, rfl⟩ := execDrw_next h
    rfl

/-- A tick leaves the display and the redraw flag. -/
theorem State.tickInput_display (s : State) :
    s.tickInput.display = s.display ∧ s.tickInput.redraw = s.redraw := by
  obtain ⟨-, -, ht⟩ | ⟨-, ht⟩ := s.tickInput_cases <;> simp [ht]

/-- A load leaves the display and the redraw flag, whether it stores, halts or is not accepted. -/
theorem State.loadInput_display (s : State) (bytes : List Byte) (origin : Nat) :
    (s.loadInput bytes origin).display = s.display ∧ (s.loadInput bytes origin).redraw = s.redraw := by
  obtain ⟨-, -, ⟨f, -, hl⟩ | ⟨-, -, hl⟩⟩ | ⟨-, hl⟩ := s.loadInput_cases bytes origin <;> simp [hl]

/-- A host event leaves the display, and the redraw flag but for `consume_redraw`, which clears it. -/
theorem State.accept_display {e : Input} {s t : State} (h : s.accept e = .next t) (hcycle : e ≠ .cycle)
    (hreset : ∀ u, e ≠ .reset u) :
    t.display = s.display ∧ (t.redraw = s.redraw ∨ e = .consumeRedraw ∧ t.redraw = false) := by
  cases e
  case cycle => exact absurd rfl hcycle
  case reset u => exact absurd rfl (hreset u)
  case tick =>
    cases h
    exact s.tickInput_display.imp_right .inl
  case load bytes origin =>
    cases h
    exact (s.loadInput_display bytes _).imp_right .inl
  case consumeRedraw =>
    cases h
    exact ⟨rfl, .inr ⟨rfl, rfl⟩⟩
  case keyEvent | quit =>
    cases h
    exact ⟨rfl, .inl rfl⟩

/-! ### The pixels that a draw inverts -/

/-- The pixels that Dxyn lists are those that a 1 bit of the sprite lands on. -/
theorem State.mem_sprite {s : State} {x y n : Nibble} {c : Fin 64} {r : Fin 32} :
    (c, r) ∈ s.sprite x y n ↔ SpritePixelDrawn s x y n c r := by
  simp only [State.sprite, mem_spritePixels, placePixel_eq_some, State.getElem_readBytes, State.length_readBytes]
  constructor
  · rintro ⟨row, hrow, b, hb, hbit, hplace⟩
    exact ⟨row, b, hrow, hb, hbit, hplace⟩
  · rintro ⟨row, b, hrow, hb, hbit, hplace⟩
    exact ⟨row, hrow, b, hb, hbit, hplace⟩

/-- Dxyn lists no pixel twice: it has at most 15 rows. -/
theorem State.nodup_sprite (s : State) (x y n : Nibble) : (s.sprite x y n).Nodup := by
  have := n.isLt
  exact nodup_spritePixels _ _ _ _ (by rw [State.length_readBytes]; omega)

/-- Drawing a sprite inverts a pixel that it draws. -/
theorem get_drawPixels_of_drawn {s : State} {x y n : Nibble} {c : Fin 64} {r : Fin 32} (d : Display)
    (h : SpritePixelDrawn s x y n c r) :
    Display.get (drawPixels d (s.sprite x y n)).1 c r = !Display.get d c r := by
  rw [(drawPixels_spec d _ (s.nodup_sprite x y n)).1, decide_eq_true (State.mem_sprite.2 h), Bool.xor_true]

/-- Drawing a sprite keeps a pixel that it does not draw. -/
theorem get_drawPixels_of_not_drawn {s : State} {x y n : Nibble} {c : Fin 64} {r : Fin 32} (d : Display)
    (h : ¬SpritePixelDrawn s x y n c r) :
    Display.get (drawPixels d (s.sprite x y n)).1 c r = Display.get d c r := by
  rw [(drawPixels_spec d _ (s.nodup_sprite x y n)).1, decide_eq_false (mt State.mem_sprite.1 h), Bool.xor_false]

/-- Drawing a sprite collides exactly when a pixel that it draws was on. -/
theorem drawPixels_collides (s : State) (x y n : Nibble) (d : Display) :
    (drawPixels d (s.sprite x y n)).2 = true ↔ ∃ c r, SpritePixelDrawn s x y n c r ∧ Display.get d c r = true := by
  simp only [(drawPixels_spec d _ (s.nodup_sprite x y n)).2, List.any_eq_true, Prod.exists, State.mem_sprite]

/-- Which pixels a sprite draws depends on the sprite's bytes, its origin and the edge policy alone. -/
theorem spritePixelDrawn_congr {s u : State} {x y n : Nibble} (hi : u.i = s.i)
    (hbytes : ∀ k, k < n.toNat → u.byteAt (s.i.toNat + k) = s.byteAt (s.i.toNat + k)) (hx : u.reg x = s.reg x)
    (hy : u.reg y = s.reg y) (hedge : u.cfg.spriteEdge = s.cfg.spriteEdge) (c : Fin 64) (r : Fin 32) :
    SpritePixelDrawn u x y n c r ↔ SpritePixelDrawn s x y n c r := by
  unfold SpritePixelDrawn
  rw [hi, hx, hy, hedge]
  refine exists_congr fun row => exists_congr fun b => and_congr_right fun hrow => ?_
  rw [hbytes row hrow]

/-! ### What a draw changes -/

/-- Dxyn completes when its bytes lie in memory. -/
theorem execDrw_eq_next {s : State} {x y n : Nibble} (h : rangeFault s.i n.toNat = none) :
    exec (.drw x y n) s = .next (((s.setDisplay (drawPixels s.display (s.sprite x y n)).1).setReg vf
      (flagByte (drawPixels s.display (s.sprite x y n)).2)).setRedraw true).advance := by
  simp only [exec, execDrw, h]

/-- No row, or every row in memory, is what the range check passes. -/
theorem rangeFault_rows_eq_none {i : Word} {n : Nibble} :
    rangeFault i n.toNat = none ↔ n = 0 ∨ i.toNat + n.toNat ≤ 0x1000 := by
  rw [rangeFault_eq_none, BitVec.toNat_eq]
  rfl

/-! ### The obligations -/

/-- Settles O22, by the instruction and by the input. -/
theorem onlyDrawingTouchesTheDisplay : Obligations.OnlyDrawingTouchesTheDisplay :=
  ⟨fun _ _ _ h => ⟨fun hi => exec_display_of_not_draws hi h, fun hi => exec_redraw_of_draws hi h⟩,
    fun _ _ _ => State.accept_display, fun _ => ⟨rfl, rfl⟩⟩

/-- Settles O53: the sprite lists each drawn pixel once, so each is inverted once, and the flag is the collision. -/
theorem drawXorsPixelsAndReportsCollision : Obligations.DrawXorsPixelsAndReportsCollision := by
  intro s x y n hfits
  refine ⟨_, execDrw_eq_next (rangeFault_rows_eq_none.2 hfits), ?drawn, ?kept, ?collision, ?noCollision, rfl, rfl, rfl,
    ?regs, fun _ => rfl⟩
  case drawn => exact fun c r h => get_drawPixels_of_drawn s.display h
  case kept => exact fun c r h => get_drawPixels_of_not_drawn s.display h
  case collision =>
    intro h
    have hhit := (drawPixels_collides s x y n s.display).2 h
    simp [hhit, flagByte]
  case noCollision =>
    intro h
    have hhit : (drawPixels s.display (s.sprite x y n)).2 = false := by
      rw [← Bool.not_eq_true, drawPixels_collides]
      rintro ⟨c, r, hdrawn, hon⟩
      exact Bool.false_ne_true ((h c r hdrawn).symm.trans hon)
    simp [hhit, flagByte]
  case regs =>
    intro j hj
    have hvf : j ≠ vf := by simpa using hj
    simp [State.reg_setReg, hvf]

/-- Settles O55, by the statement about one draw, used twice: both draws have the same pixels, so each of them is
inverted twice, and the second draw finds on what had been off. -/
theorem drawingTwiceRestoresTheDisplay : Obligations.DrawingTwiceRestoresTheDisplay := by
  intro s t u x y n hdraw hdisplay hi hbytes hx hy hedge
  have hfits := rangeFault_rows_eq_none.1 (execDrw_next hdraw).1
  have hsame := spritePixelDrawn_congr (n := n) hi hbytes hx hy hedge
  have hpixel : ∀ c r, u.pixel c r = t.pixel c r := fun c r => congrArg (Display.get · c r) hdisplay
  obtain ⟨t', ht', hdrawn, hkept, -⟩ := drawXorsPixelsAndReportsCollision s x y n hfits
  cases hdraw.symm.trans ht'
  obtain ⟨w, hw, hdrawn', hkept', hcollision, hnoCollision, -⟩ :=
    drawXorsPixelsAndReportsCollision u x y n (by rwa [hi])
  simp only [hsame, hpixel] at hdrawn' hkept' hcollision hnoCollision
  refine ⟨w, hw, Display.ext_get fun c r => ?restored, ?collision, ?noCollision⟩
  case restored =>
    by_cases h : SpritePixelDrawn s x y n c r
    · exact (hdrawn' c r h).trans (by rw [hdrawn c r h, Bool.not_not, State.pixel])
    · exact (hkept' c r h).trans (hkept c r h)
  case collision =>
    rintro ⟨c, r, h, hoff⟩
    exact hcollision ⟨c, r, h, by rw [hdrawn c r h, hoff, Bool.not_false]⟩
  case noCollision =>
    intro hon
    exact hnoCollision fun c r h => by rw [hdrawn c r h, hon c r h, Bool.not_true]

/-- Settles O52: the word decodes, and the blank display has every pixel off. -/
theorem clearScreenBlanksAndSetsRedraw : Obligations.ClearScreenBlanksAndSetsRedraw :=
  ⟨decodeInvertsEncode .cls, fun s =>
    ⟨_, rfl, Display.get_blank, rfl, rfl, rfl, fun j _ => s.reg_setDisplay Display.blank j, fun _ => rfl⟩⟩

end Sys2Proof.Machine
end

section
/-! PROOFS. The font region under `P_FONT_WRITE = fault` (spec 20_memory.md R68): an instruction that stores has passed
the font check, so no byte that it stores lies in the region. -/

namespace Sys2Proof.Machine

/-! ### The check of a store -/

/-- An instruction that completes stores nothing, or its bytes have passed the checks of a store. -/
theorem exec_passes_writeFault {i : Instr} {s t : State} (h : exec i s = .next t) :
    storedBytes i = 0 ∨ s.writeFault (storedBytes i) = none := by
  cases i
  case ldB x => exact .inr (execLdB_next h).1
  case storeRegs x => exact .inr (execStoreRegs_next h).1
  all_goals exact .inl rfl

/-- Under the fault policy no address that an instruction stores to lies in the font region. -/
theorem not_stored_of_protected {i : Instr} {s t : State} (hp : s.cfg.fontWrite = .fault) (h : exec i s = .next t)
    {a : Nat} (hlo : 0x050 ≤ a) (hhi : a ≤ 0x09F) : ¬(s.i.toNat ≤ a ∧ a < s.i.toNat + storedBytes i) := by
  obtain hnone | hpass := exec_passes_writeFault h
  · omega
  · obtain hw | hfont := State.fontFault_eq_none.1 (State.writeFault_eq_none.1 hpass).2
    · cases hp.symm.trans hw
    · omega

/-! ### The font region -/

/-- The cycle of a pending wait leaves every byte. -/
theorem resolveWait_byteAt (r : Nibble) (s : State) (a : Nat) : (resolveWait r s).byteAt a = s.byteAt a := by
  obtain ⟨k, -, hr⟩ | ⟨-, hr⟩ := resolveWait_cases r s
  · rw [hr, State.byteAt_advance, State.byteAt_setMode, State.byteAt_setReg]
  · rw [hr]

/-- Settles O18, by everything the next state of a step can be: only an instruction stores, and not into the region. -/
theorem protectedFontIsNeverMutated : Obligations.ProtectedFontIsNeverMutated := by
  intro s t hp h a hlo hhi
  obtain rfl | ⟨f, rfl⟩ | ⟨u, rfl, hu⟩ := step_next_cases h
  · rfl
  · exact s.byteAt_halt f a
  · rw [State.byteAt_endCycle]
    obtain ⟨r, -, rfl⟩ | ⟨-, op, -, ⟨-, rfl⟩ | ⟨i, -, hi⟩⟩ := hu
    · exact resolveWait_byteAt r s a
    · exact s.byteAt_advance a
    · exact memoryWrittenOnlyAsListed i s u hi a (not_stored_of_protected hp hi hlo hhi)

end Sys2Proof.Machine
end

section
/-! PROOFS. The unused encodings (spec 30_encoding.md R86, R87), family by family. -/

namespace Sys2Proof

/-! ### The words of a family that match none of its rows -/

/-- Family 0 has two words. -/
theorem decodeFamily0_unrecognised {op : Word} (hcls : op.toNat ≠ 0x0E0) (hret : op.toNat ≠ 0x0EE) :
    decodeFamily0 op = .unrecognised op := by
  unfold decodeFamily0
  split
  · exact absurd ‹_› hcls
  · exact absurd ‹_› hret
  · rfl

/-- Family E has two low bytes. -/
theorem decodeFamilyE_unrecognised (op : Word) {f : Fields} (hskp : f.kk ≠ 0x9E) (hsknp : f.kk ≠ 0xA1) :
    decodeFamilyE op f = .unrecognised op := by
  unfold decodeFamilyE
  split
  · exact absurd (BitVec.eq_of_toNat_eq ‹_›) hskp
  · exact absurd (BitVec.eq_of_toNat_eq ‹_›) hsknp
  · rfl

/-- The low bytes of family F. -/
theorem decodeFamilyF_unrecognised (op : Word) {f : Fields}
    (h : f.kk ∉ [0x07#8, 0x0A#8, 0x15#8, 0x18#8, 0x1E#8, 0x29#8, 0x33#8, 0x55#8, 0x65#8]) :
    decodeFamilyF op f = .unrecognised op := by
  unfold decodeFamilyF
  split
  case h_10 => rfl
  all_goals
    rename_i hkk
    have hbyte : f.kk = BitVec.ofNat 8 f.kk.toNat := by rw [BitVec.ofNat_toNat, BitVec.setWidth_eq]
    rw [hbyte, hkk] at h
    exact absurd (by decide) h

/-- Settles O5: the family's own discriminator (a word, a nibble or a byte) is none of those of its rows. -/
theorem unusedEncodingsAreUnrecognised : Obligations.UnusedEncodingsAreUnrecognised := by
  refine ⟨?family0, ?families5And9, ?family8, ?familyE, ?familyF⟩
  case family0 =>
    intro nnn hcls hret
    have hop : (0x0#4 ++ nnn : Word).toNat = nnn.toNat := by
      rw [toNat_tnnn, BitVec.toNat_ofNat, Nat.zero_mod, Nat.zero_mul, Nat.zero_add]
    rw [decode_tnnn]
    apply decodeFamily0_unrecognised
    · exact hop ▸ fun e => hcls (BitVec.eq_of_toNat_eq e)
    · exact hop ▸ fun e => hret (BitVec.eq_of_toNat_eq e)
  case families5And9 =>
    intro x y n hn
    rw [decode_txyn, decode_txyn]
    exact ⟨if_neg hn, if_neg hn⟩
  case family8 =>
    intro x y n hn
    simp only [List.mem_cons, List.not_mem_nil, or_false] at hn
    obtain rfl | rfl | rfl | rfl | rfl | rfl | rfl := hn
    all_goals exact decode_txyn _ x y _
  case familyE =>
    intro x kk hskp hsknp
    rw [decode_txkk]
    exact decodeFamilyE_unrecognised _ hskp hsknp
  case familyF =>
    intro x kk hkk
    rw [decode_txkk]
    exact decodeFamilyF_unrecognised _ hkk

end Sys2Proof
end

section
/-! PROOFS. The cycle (spec 40_cycle.md): its faults (R101, R102, R108), the advance of PC (R104), the tick at its end
(R110), and that it always answers a next state (R100). -/

namespace Sys2Proof.Machine

/-! ### Where an instruction leaves PC -/

/-- Settles O23, by the instruction: one that redirects control is excluded, and every other ends with `advance`. -/
theorem ordinaryInstructionsAdvancePcByTwo : Obligations.OrdinaryInstructionsAdvancePcByTwo := by
  intro i s t hi h
  cases i
  case ret | jp | call | jpV0 | seImm | sneImm | seReg | sneReg | skp | sknp | ldVxK =>
    exact absurd (by simp [Redirects]) hi
  case ldB x =>
    obtain ⟨-, rfl⟩ := execLdB_next h
    rw [State.advance_pc, State.storeBytes_pc]
  case storeRegs x =>
    obtain ⟨-, rfl⟩ := execStoreRegs_next h
    rw [State.advance_pc, State.storeBytes_pc]
  case loadRegs x =>
    obtain ⟨-, rfl⟩ := execLoadRegs_next h
    rw [State.advance_pc, State.setRegs_eq]
  case drw x y n =>
    obtain ⟨-, rfl⟩ := execDrw_next h
    rfl
  all_goals
    cases h
    rfl

/-! ### The faults of a fetch -/

theorem State.fetch_past_memory {s : State} (h : 0xFFF < s.pc.toNat) :
    s.fetch = .error (.addressOutOfRange s.pc.toNat) := by
  simp [State.fetch, addressFault, h]

theorem State.fetch_at_last_byte {s : State} (h : s.pc.toNat = 0xFFF) :
    s.fetch = .error (.addressOutOfRange 0x1000) := by
  simp [State.fetch, addressFault, h]

theorem State.fetch_odd {s : State} (hpc : s.pc.toNat ≤ 0xFFE) (hp : s.cfg.oddPc = .fault)
    (hodd : s.pc.toNat % 2 = 1) : s.fetch = .error (.misalignedFetch s.pc) := by
  have hfirst : addressFault s.pc.toNat = none := if_neg (by omega)
  have hsecond : addressFault (s.pc.toNat + 1) = none := if_neg (by omega)
  simp [State.fetch, hfirst, hsecond, State.oddPcFault, hp, hodd]

/-- Settles O9, by the fetch that faults. -/
theorem fetchFaultsHaltTheBlock : Obligations.FetchFaultsHaltTheBlock := by
  intro s ⟨hrun, hmode⟩
  refine ⟨fun hpc => ?pastMemory, fun hpc => ?lastByte, fun hpc hp hodd => ?odd⟩
  case pastMemory => exact step_fetch_fault hrun hmode (State.fetch_past_memory hpc)
  case lastByte => exact step_fetch_fault hrun hmode (State.fetch_at_last_byte hpc)
  case odd => exact step_fetch_fault hrun hmode (State.fetch_odd hpc hp hodd)

/-! ### A cycle that halts, and the halted block -/

/-- The cycle of a pending wait leaves RUN. -/
theorem resolveWait_run (r : Nibble) (s : State) : (resolveWait r s).run = s.run := by
  obtain ⟨k, -, hr⟩ | ⟨-, hr⟩ := resolveWait_cases r s
  · rw [hr, State.advance_run, State.setMode_run, State.setReg_run]
  · rw [hr]

/-- No instruction writes RUN. -/
theorem exec_run {i : Instr} {s t : State} (h : exec i s = .next t) : t.run = s.run := by
  obtain ⟨-, -, -, -, -, -, -, -, hrun, -⟩ := dedicatedLocationsWrittenOnlyAsListed i s t h
  exact hrun

/-- A step of a running block leaves it running, or is the halt with a fault. -/
theorem step_run_cases {s t : State} (hrun : s.run = .running) (h : step s = .next t) :
    t.run = .running ∨ ∃ f, t = s.halt f := by
  obtain rfl | hhalt | ⟨u, rfl, hu⟩ := step_next_cases h
  · exact .inl hrun
  · exact .inr hhalt
  · rw [State.endCycle_run]
    obtain ⟨r, -, rfl⟩ | ⟨-, op, -, ⟨-, rfl⟩ | ⟨i, -, hi⟩⟩ := hu
    · exact .inl ((resolveWait_run r s).trans hrun)
    · exact .inl hrun
    · exact .inl ((exec_run hi).trans hrun)

theorem State.tickInput_halted {s : State} {f : Fault} (h : s.run = .halted f) : s.tickInput = s := by
  obtain ⟨-, hrun, -⟩ | ⟨-, hsame⟩ := s.tickInput_cases
  · cases hrun.symm.trans h
  · exact hsame

/-- Settles O10: a step that does not leave the block running is the halt with its fault, and a halted block's cycle and
tick leave it. -/
theorem haltingCycleChangesOnlyRun : Obligations.HaltingCycleChangesOnlyRun := by
  intro s t f hrun hstep ht
  obtain hkept | ⟨g, rfl⟩ := step_run_cases hrun hstep
  · cases hkept.symm.trans ht
  · cases ht
    exact ⟨rfl, step_halted rfl, State.tickInput_halted rfl⟩

/-- Settles O12, by everything a step can do. -/
theorem everyCycleAnswersANextState : Obligations.EveryCycleAnswersANextState := by
  intro s
  obtain ⟨_, -, hs⟩ | ⟨_, -, -, hs⟩ | ⟨-, -, ⟨_, -, hs⟩ | ⟨_, -, -, hs⟩ | ⟨_, i, -, -, hs⟩⟩ := step_cases s
  · exact ⟨_, hs⟩
  · exact ⟨_, hs⟩
  · exact ⟨_, hs⟩
  · exact ⟨_, hs⟩
  · obtain ⟨t, -, he⟩ | ⟨f, -, he⟩ := settle_exec i s
    · exact ⟨_, hs.trans he⟩
    · exact ⟨_, hs.trans he⟩

/-! ### The end of a cycle under each tick mode -/

theorem State.endCycle_coupled {s : State} (h : s.cfg.tickMode = .coupled) :
    s.endCycle = s.tickTimers.setStarted true := by
  rw [State.endCycle, State.tickIfCoupled, h]

theorem State.endCycle_independent {s : State} (h : s.cfg.tickMode = .independent) :
    s.endCycle = s.setStarted true := by
  rw [State.endCycle, State.tickIfCoupled, h]

/-- Settles O8, by the tick mode. -/
theorem cycleEndTicksOnlyWhenCoupled : Obligations.CycleEndTicksOnlyWhenCoupled := by
  refine fun s => ⟨fun h => ?coupled, State.endCycle_independent⟩
  case coupled =>
    rw [State.endCycle_coupled h]
    exact ⟨rfl, countDown_toNat s.dt, countDown_toNat s.st⟩

end Sys2Proof.Machine
end

section
/-! PROOFS. Control flow (spec 41_control_flow.md): the call and the return (R121, R123, R129), the skips on two
registers (R126, R127) and the jump with an offset (R128). -/

namespace Sys2Proof.Machine

/-! ### The call and the return -/

theorem execCall_full {s : State} (nnn : Addr12) (h : s.sp.val = 16) :
    exec (.call nnn) s = .fault (.stackOverflow s.pc) := by
  obtain ⟨-, hpush⟩ | ⟨hlt, -⟩ := s.push_cases s.pc
  · simp only [exec, execCall, hpush]
  · omega

theorem execCall_eq_next {s : State} (nnn : Addr12) (h : s.sp.val < 16) :
    exec (.call nnn) s = .next (({ s with
      stack := s.stack.set s.sp.val s.pc h, sp := ⟨s.sp.val + 1, Nat.succ_lt_succ h⟩ } : State).setPc
        (nnn.setWidth 16)) := by
  obtain ⟨hfull, -⟩ | ⟨_, hpush⟩ := s.push_cases s.pc
  · omega
  · simp only [exec, execCall, hpush]

theorem execRet_empty {s : State} (h : s.sp.val = 0) : exec .ret s = .fault (.stackUnderflow s.pc) := by
  obtain ⟨-, hpop⟩ | ⟨k, hk, hsp, -⟩ := s.pop_cases
  · simp only [exec, execRet, hpop]
  · omega

theorem execRet_eq_next {s : State} {k : Fin 16} (h : s.sp.val = k.val + 1) :
    exec .ret s = .next (({ s with sp := k.castSucc } : State).setPc (s.stack[k.val] + 2)) := by
  obtain ⟨hempty, -⟩ | ⟨j, hj, hsp, hpop⟩ := s.pop_cases
  · omega
  · obtain rfl : j = k.val := by omega
    simp only [exec, execRet, hpop]
    rfl

/-- Settles O26, by the depth of the stack. -/
theorem callPushesItsOwnAddress : Obligations.CallPushesItsOwnAddress := by
  refine fun s nnn => ⟨execCall_full nnn, fun hlt =>
    ⟨_, execCall_eq_next nnn hlt, ?target, rfl, ?pushed, ?kept, rfl, fun _ _ => rfl, fun _ => rfl⟩⟩
  case target => exact BitVec.toNat_setWidth_of_le (by decide)
  case pushed =>
    intro k hk
    rw [State.setPc_stack, Vector.getElem_set, if_pos hk.symm]
  case kept =>
    intro k hk
    rw [State.setPc_stack, Vector.getElem_set, if_neg (Ne.symm hk)]

/-- Settles O27, by the depth of the stack. -/
theorem returnGoesPastTheCall : Obligations.ReturnGoesPastTheCall :=
  fun _ => ⟨execRet_empty, fun _ hk => ⟨_, execRet_eq_next hk, rfl, rfl, rfl, fun _ _ => rfl, fun _ => rfl⟩⟩

/-- Settles O28, from the statements about the call and the return: the entry that the return pops is the one that the
call pushed. -/
theorem returnUndoesCall : Obligations.ReturnUndoesCall := by
  intro s t u nnn hcall hsp hstack
  obtain ⟨hlt, -⟩ := execCall_next hcall
  obtain ⟨t', ht', -, htsp, hpushed, -⟩ := (callPushesItsOwnAddress s nnn).2 hlt
  cases hcall.symm.trans ht'
  obtain ⟨top, htop⟩ : ∃ top : Fin 16, top.val = s.sp.val := ⟨⟨s.sp.val, hlt⟩, rfl⟩
  have hdepth : u.sp.val = top.val + 1 := by rw [hsp, htsp, htop]
  have hentry : u.stack[top.val] = s.pc := (hstack top (by omega)).trans (hpushed top htop)
  obtain ⟨w, hw, hpc, hwsp, -⟩ := (returnGoesPastTheCall u).2 top hdepth
  exact ⟨w, hw, by rw [hpc, hentry], Fin.ext (hwsp.trans htop)⟩

/-! ### The skips and the jump -/

/-- Settles O30: each form is a `skipIf` on its comparison, which moves `PC` alone. -/
theorem registerSkipsCompareVxVy : Obligations.RegisterSkipsCompareVxVy :=
  fun s x y =>
    ⟨⟨_, rfl, s.skipIf_beq_pc (s.reg x) (s.reg y), onlyPc_skipIf s _⟩,
      ⟨_, rfl, s.skipIf_bne_pc (s.reg x) (s.reg y), onlyPc_skipIf s _⟩⟩

/-- Settles O31: an address and a byte add up to less than 2^16. -/
theorem offsetJumpAddsV0 : Obligations.OffsetJumpAddsV0 := by
  refine fun s nnn => ⟨_, rfl, ?sum, onlyPc_setPc s _⟩
  case sum =>
    rw [State.setPc_pc]
    bv_omega

end Sys2Proof.Machine
end

section
/-! PROOFS. Register arithmetic and logic (spec 42_alu.md): the shifts (R150, R152) and the difference the other way
(R151). -/

namespace Sys2Proof.Machine

/-! ### The bit shifted out -/

theorem flagByte_toNat (b : Bool) : (flagByte b).toNat = b.toNat := by
  cases b
  · rfl
  · rfl

theorem lowBit_toNat (b : Byte) : (lowBit b).toNat = b.toNat % 2 := by
  rw [lowBit, BitVec.getLsbD, Nat.toNat_testBit, Nat.pow_zero, Nat.div_one]

theorem highBit_toNat (b : Byte) : (highBit b).toNat = b.toNat / 128 := by
  have := b.isLt
  rw [highBit, BitVec.getLsbD, Nat.toNat_testBit]
  omega

/-! ### The obligations -/

/-- Settles O36: the difference is written before its flag, which is the strict comparison (90_conflicts.md C3). -/
theorem reverseSubtractFlagsStrictlyGreater : Obligations.ReverseSubtractFlagsStrictlyGreater := by
  intro s x y
  refine ⟨_, rfl, fun hx => ?difference, ?greater, rfl, onlyRegs_setRegFlag_advance s x _ _⟩
  case difference => rw [State.reg_advance, State.reg_setRegFlag_dest hx, toNat_sub_eq_emod]
  case greater => rw [State.reg_advance, State.reg_setRegFlag_vf, leftGreater, flagByte_decide]

/-- Settles O37: each shift is written before the bit that it shifts out of its source, which VF keeps. -/
theorem shiftsFlagTheBitShiftedOut : Obligations.ShiftsFlagTheBitShiftedOut := by
  rintro s x y src hsrc
  obtain rfl : src = s.shiftSource x y := hsrc
  refine ⟨⟨_, rfl, fun hx => ?half, ?low, rfl, onlyRegs_setRegFlag_advance s x _ _⟩,
    ⟨_, rfl, fun hx => ?double, ?high, rfl, onlyRegs_setRegFlag_advance s x _ _⟩⟩
  case half =>
    rw [State.reg_advance, State.reg_setRegFlag_dest hx, BitVec.toNat_ushiftRight, Nat.shiftRight_eq_div_pow, Nat.pow_one]
  case low => rw [State.reg_advance, State.reg_setRegFlag_vf, flagByte_toNat, lowBit_toNat]
  case double =>
    rw [State.reg_advance, State.reg_setRegFlag_dest hx, BitVec.toNat_shiftLeft, Nat.shiftLeft_eq, Nat.pow_one]
  case high => rw [State.reg_advance, State.reg_setRegFlag_vf, flagByte_toNat, highBit_toNat]

end Sys2Proof.Machine
end

section
/-! PROOFS. The index register and memory transfer (spec 43_index_memory.md): the addition and the glyph address (R172,
R173), the decimal digits (R174), the store and the load of registers (R175, R176), and their checks (R170). -/

namespace Sys2Proof.Machine

/-! ### The checks of a store -/

/-- A store of one byte or more passes its checks exactly when it fits in memory and outside a protected font. -/
theorem State.writeFault_succ_eq_none {s : State} {n : Nat} :
    s.writeFault (n + 1) = none ↔
      s.i.toNat + n ≤ 0xFFF ∧ (s.cfg.fontWrite = .write ∨ 0x09F < s.i.toNat ∨ s.i.toNat + n < 0x050) := by
  rw [State.writeFault_eq_none, rangeFault_eq_none, State.fontFault_eq_none, or_iff_right (Nat.succ_ne_zero n),
    ← Nat.add_assoc, Nat.add_one_le_iff, Nat.add_one_le_iff, Nat.lt_succ_iff]

theorem not_write_iff_fault {p : FontWritePolicy} : ¬p = .write ↔ p = .fault := by
  cases p with
  | write => exact iff_of_false (not_not_intro rfl) nofun
  | fault => exact iff_of_true nofun rfl

/-- A store past memory reports the lowest address outside it, whatever the font check says. -/
theorem State.writeFault_past_memory {s : State} {n : Nat} (h : 0xFFF < s.i.toNat + n) :
    s.writeFault (n + 1) = some (.addressOutOfRange (max s.i.toNat 0x1000)) := by
  rw [State.writeFault, rangeFault_eq_some (Nat.succ_pos n) h]

/-- A store in memory that meets a protected font reports the lowest font address that it would write. -/
theorem State.writeFault_in_font {s : State} {n : Nat} (hn : n ≤ 0xF) (hp : s.cfg.fontWrite = .fault)
    (hlo : s.i.toNat ≤ 0x09F) (hhi : 0x050 ≤ s.i.toNat + n) :
    s.writeFault (n + 1) = some (.fontWrite (max s.i.toNat 0x050)) := by
  have hrange : rangeFault s.i (n + 1) = none := rangeFault_eq_none.2 (.inr (by omega))
  rw [State.writeFault, hrange]
  exact State.fontFault_eq_some hp hlo (by omega)

/-! ### What the three transfers answer -/

theorem execLdB_eq_fault {s : State} {f : Fault} (x : Nibble) (h : s.writeFault 3 = some f) :
    exec (.ldB x) s = .fault f := by
  simp only [exec, execLdB, h]

theorem execLdB_eq_next {s : State} (x : Nibble) (h : s.writeFault 3 = none) :
    exec (.ldB x) s = .next (s.storeBytes s.i.toNat (decimalDigits (s.reg x))).advance := by
  simp only [exec, execLdB, h]

theorem execStoreRegs_eq_fault {s : State} {x : Nibble} {f : Fault} (h : s.writeFault (x.toNat + 1) = some f) :
    exec (.storeRegs x) s = .fault f := by
  simp only [exec, execStoreRegs, h]

theorem execStoreRegs_eq_next {s : State} {x : Nibble} (h : s.writeFault (x.toNat + 1) = none) :
    exec (.storeRegs x) s = .next (s.storeBytes s.i.toNat (s.readRegs (x.toNat + 1))).advance := by
  simp only [exec, execStoreRegs, h]

theorem execLoadRegs_eq_fault {s : State} {x : Nibble} {f : Fault} (h : rangeFault s.i (x.toNat + 1) = some f) :
    exec (.loadRegs x) s = .fault f := by
  simp only [exec, execLoadRegs, h]

theorem execLoadRegs_eq_next {s : State} {x : Nibble} (h : rangeFault s.i (x.toNat + 1) = none) :
    exec (.loadRegs x) s = .next (s.setRegs 0 (s.readBytes s.i.toNat (x.toNat + 1))).advance := by
  simp only [exec, execLoadRegs, h]

/-- Fx33 faults exactly when its store does not pass the checks. -/
theorem execLdB_faults_iff (s : State) (x : Nibble) : (∃ f, exec (.ldB x) s = .fault f) ↔ s.writeFault 3 ≠ none := by
  cases h : s.writeFault 3 with
  | some f => exact iff_of_true ⟨f, execLdB_eq_fault x h⟩ nofun
  | none =>
    refine iff_of_false ?_ (not_not_intro rfl)
    rintro ⟨f, hf⟩
    cases (execLdB_eq_next x h).symm.trans hf

/-! ### What a store leaves -/

/-- The frame of a store: nothing but memory and PC changes. -/
theorem storeBytes_advance_frame (s : State) (a : Nat) (bs : List Byte) :
    (s.storeBytes a bs).advance = { s with
      mem := (s.storeBytes a bs).advance.mem, pc := (s.storeBytes a bs).advance.pc } ∧
      SameRegsBut [] s (s.storeBytes a bs).advance := by
  refine ⟨?state, fun j _ => ?regs⟩
  case state =>
    rw [State.storeBytes_eq]
    rfl
  case regs => rw [State.reg_advance, State.reg_storeBytes]

/-- A byte of a store. -/
theorem State.byteAt_storeBytes_at (s : State) (a : Nat) {bs : List Byte} {k : Nat} (hk : k < bs.length) :
    (s.storeBytes a bs).byteAt (a + k) = bs[k] := by
  rw [State.byteAt_storeBytes, dif_pos ⟨by omega, by omega⟩]
  simp only [Nat.add_sub_cancel_left]

/-- A store leaves the bytes outside its range. -/
theorem sameMemoryOutside_storeBytes (s : State) (a : Nat) (bs : List Byte) :
    SameMemoryOutside a bs.length s (s.storeBytes a bs) := by
  intro b hb
  rw [State.byteAt_storeBytes, dif_neg hb]

/-! ### The obligations -/

/-- Settles O40: each form is one write of `I`, as a number mod 2^16. -/
theorem indexAddAndGlyphAddress : Obligations.IndexAddAndGlyphAddress := by
  refine fun s x => ⟨⟨_, rfl, ?sum, rfl, setI_advance_frame s _⟩, ⟨_, rfl, ?glyph, rfl, setI_advance_frame s _⟩⟩
  case sum =>
    rw [State.advance_i, State.setI_i, BitVec.toNat_add, BitVec.toNat_setWidth_of_le (by decide)]
  case glyph => rw [State.advance_i, State.setI_i, State.glyphAddress, BitVec.toNat_ofNat]

/-- Settles O41: the word decodes; Fx33 faults exactly when its store is refused; the store is of the three digits. -/
theorem decimalDigitsAreStored : Obligations.DecimalDigitsAreStored := by
  refine fun s x => ⟨decodeInvertsEncode (.ldB x), ?faults, fun hmem hfont => ?completes⟩
  case faults =>
    rw [execLdB_faults_iff, Ne, State.writeFault_succ_eq_none, not_and_or, not_or, not_or, not_le, not_lt, not_lt,
      not_write_iff_fault]
  case completes =>
    have hpass : s.writeFault 3 = none := State.writeFault_succ_eq_none.2 ⟨hmem, hfont⟩
    have hdigit (k : Nat) (hk : k < 3) :
        ((s.storeBytes s.i.toNat (decimalDigits (s.reg x))).advance.byteAt (s.i.toNat + k)).toNat =
          (decimalDigits (s.reg x))[k].toNat := congrArg BitVec.toNat (s.byteAt_storeBytes_at _ hk)
    have hbyte := (s.reg x).isLt
    refine ⟨_, execLdB_eq_next x hpass, ?hundreds, ?tens, ?ones,
      sameMemoryOutside_storeBytes s _ (decimalDigits (s.reg x)), ?pc, storeBytes_advance_frame s _ _⟩
    case hundreds => exact (hdigit 0 (by decide)).trans (Nat.mod_eq_of_lt (by omega))
    case tens => exact (hdigit 1 (by decide)).trans (Nat.mod_eq_of_lt (by omega))
    case ones => exact (hdigit 2 (by decide)).trans (Nat.mod_eq_of_lt (by omega))
    case pc => rw [State.advance_pc, State.storeBytes_pc]

/-- Settles O42: the store passes its checks, and its byte `j` is `V[j]`. -/
theorem registersAreStoredFromI : Obligations.RegistersAreStoredFromI := by
  intro s x hmem hfont
  have hpass : s.writeFault (x.toNat + 1) = none := State.writeFault_succ_eq_none.2 ⟨hmem, hfont⟩
  have houtside := sameMemoryOutside_storeBytes s s.i.toNat (s.readRegs (x.toNat + 1))
  rw [State.length_readRegs] at houtside
  refine ⟨_, execStoreRegs_eq_next hpass, fun j hj => ?stored, houtside, ?pc, storeBytes_advance_frame s _ _⟩
  case stored =>
    have hlt : j.toNat < (s.readRegs (x.toNat + 1)).length := by
      rw [State.length_readRegs]
      omega
    rw [State.byteAt_advance, State.byteAt_storeBytes_at s _ hlt, State.getElem_readRegs, BitVec.ofNat_toNat,
      BitVec.setWidth_eq]
  case pc => rw [State.advance_pc, State.storeBytes_pc]

/-- Settles O43: the load passes its check, and writes byte `j` to `V[j]`. -/
theorem registersAreLoadedFromI : Obligations.RegistersAreLoadedFromI := by
  intro s x hmem
  have := x.isLt
  have hpass : rangeFault s.i (x.toNat + 1) = none := rangeFault_eq_none.2 (.inr (by omega))
  have hlen := s.length_readBytes s.i.toNat (x.toNat + 1)
  refine ⟨_, execLoadRegs_eq_next hpass, fun j hj => ?loaded, fun j hj => ?kept, ?pc, ?frame, fun a => ?mem⟩
  case loaded =>
    rw [State.reg_advance, State.reg_setRegs s 0 _ (by omega), dif_pos ⟨by omega, by omega⟩, State.getElem_readBytes,
      Nat.sub_zero]
  case kept => rw [State.reg_advance, State.reg_setRegs_zero_past s (by omega) (by omega)]
  case pc => rw [State.advance_pc, State.setRegs_eq]
  case frame =>
    rw [State.setRegs_eq]
    rfl
  case mem =>
    rw [State.setRegs_eq]
    rfl

/-- Settles O44, by the check that fails: the range, or, in memory, the font. -/
theorem memoryTransferFaults : Obligations.MemoryTransferFaults := by
  refine fun s x => ⟨fun h => ?digits, fun h => ⟨?store, ?load⟩, fun hp hlo hhi => ?digitsFont,
    fun hp hlo hhi => ?storeFont⟩
  case digits => exact execLdB_eq_fault x (State.writeFault_past_memory h)
  case store => exact execStoreRegs_eq_fault (State.writeFault_past_memory h)
  case load => exact execLoadRegs_eq_fault (rangeFault_eq_some (Nat.succ_pos _) h)
  case digitsFont => exact execLdB_eq_fault x (State.writeFault_in_font (by decide) hp hlo hhi)
  case storeFont => exact execStoreRegs_eq_fault (State.writeFault_in_font (Nat.le_of_lt_succ x.isLt) hp hlo hhi)

end Sys2Proof.Machine
end

section
/-! PROOFS. The timers (spec 44_timers.md): a timer written in a cycle, and the tick at the end of it (R196). -/

namespace Sys2Proof.Machine

/-- A step that fetches an instruction which completes is the end of the cycle after it. -/
theorem step_of_exec_next {s t : State} {op : Word} {i : Instr} (hready : s.ready) (hfetch : s.fetch = .ok op)
    (hdec : decode op = .instr i) (h : exec i s = .next t) : step s = .next t.endCycle := by
  obtain ⟨hrun, hmode⟩ := hready
  rw [step_fetched hrun hmode hfetch, hdec, execDecoded, h, State.settle]

/-- Settles O47: the instruction writes the timer, then the end of the cycle ticks it or not. -/
theorem timerWriteIsTickedInItsCycle : Obligations.TimerWriteIsTickedInItsCycle := by
  refine fun s op x hready hfetch => ⟨fun hdec => ?delay, fun hdec => ?sound⟩
  case delay =>
    obtain ⟨hcoupled, hindependent⟩ := cycleEndTicksOnlyWhenCoupled (s.setDt (s.reg x)).advance
    refine ⟨_, step_of_exec_next hready hfetch hdec rfl, fun hmode => ?_, fun hmode => ?_⟩
    · obtain ⟨-, hdt, -⟩ := hcoupled hmode
      exact hdt
    · rw [hindependent hmode]
      rfl
  case sound =>
    obtain ⟨hcoupled, hindependent⟩ := cycleEndTicksOnlyWhenCoupled (s.setSt (s.reg x)).advance
    refine ⟨_, step_of_exec_next hready hfetch hdec rfl, fun hmode => ?_, fun hmode => ?_⟩
    · obtain ⟨-, -, hst⟩ := hcoupled hmode
      exact hst
    · rw [hindependent hmode]
      rfl

end Sys2Proof.Machine
end

section
/-! PROOFS. The keypad (spec 45_keypad.md): the key skips with their policies (R211 to R213), Fx0A (R214), and the
pending wait as Fx0A executed again (R216, R219). -/

namespace Sys2Proof.Machine

/-! ### The key that a register names -/

/-- The key that a value names: its own, or under the mask policy that of its low nibble. -/
theorem State.keyPressed_eq_ok {s : State} {b : Byte} {k : Fin 16}
    (h : b.toNat = k.val ∨ 15 < b.toNat ∧ s.cfg.keyIndex = .mask ∧ b.toNat % 16 = k.val) :
    s.keyPressed b = .ok (s.key k) := by
  obtain heq | ⟨hlarge, hp, hmod⟩ := h
  · have hlt : b.toNat < 16 := heq ▸ k.isLt
    have hkey : (⟨b.toNat, hlt⟩ : Fin 16) = k := Fin.ext heq
    rw [State.keyPressed, dif_pos hlt, hkey]
  · have hkey : (⟨b.toNat % 16, Nat.mod_lt _ (by decide)⟩ : Fin 16) = k := Fin.ext hmod
    rw [State.keyPressed, dif_neg (by omega), hp]
    simp only [hkey]

theorem State.keyPressed_not_pressed {s : State} {b : Byte} (h : 15 < b.toNat) (hp : s.cfg.keyIndex = .notPressed) :
    s.keyPressed b = .ok false := by
  rw [State.keyPressed, dif_neg (by omega), hp]

theorem State.keyPressed_fault {s : State} {b : Byte} (h : 15 < b.toNat) (hp : s.cfg.keyIndex = .fault) :
    s.keyPressed b = .error (.keyIndexOutOfRange b) := by
  rw [State.keyPressed, dif_neg (by omega), hp]

/-! ### The key skips -/

theorem completes_skp {s : State} {x : Nibble} {p : Bool} (h : s.keyPressed (s.reg x) = .ok p) :
    Completes (.skp x) s fun t => t.pc = (if p = true then s.pc + 4 else s.pc + 2) ∧ OnlyPc s t := by
  have hexec : exec (.skp x) s = .next (s.skipIf p) := by simp only [exec, execSkp, h]
  exact ⟨_, hexec, rfl, onlyPc_skipIf s p⟩

theorem completes_sknp {s : State} {x : Nibble} {p : Bool} (h : s.keyPressed (s.reg x) = .ok p) :
    Completes (.sknp x) s fun t => t.pc = (if p = true then s.pc + 2 else s.pc + 4) ∧ OnlyPc s t := by
  have hexec : exec (.sknp x) s = .next (s.skipIf (!p)) := by simp only [exec, execSknp, h]
  refine ⟨_, hexec, ?_, onlyPc_skipIf s _⟩
  cases p
  · rfl
  · rfl

theorem execSkp_eq_fault {s : State} {x : Nibble} {f : Fault} (h : s.keyPressed (s.reg x) = .error f) :
    exec (.skp x) s = .fault f := by
  simp only [exec, execSkp, h]

theorem execSknp_eq_fault {s : State} {x : Nibble} {f : Fault} (h : s.keyPressed (s.reg x) = .error f) :
    exec (.sknp x) s = .fault f := by
  simp only [exec, execSknp, h]

/-- Settles O48, by what the value of `V[x]` names: a key, no key, or a fault. -/
theorem keySkipsReadTheKeyOfVx : Obligations.KeySkipsReadTheKeyOfVx := by
  refine fun s x => ⟨fun k hk => ?key, fun hlarge hp => ?notPressed, fun hlarge hp => ?fault⟩
  case key =>
    have hpressed := State.keyPressed_eq_ok hk
    exact ⟨completes_skp hpressed, completes_sknp hpressed⟩
  case notPressed =>
    have hpressed := State.keyPressed_not_pressed hlarge hp
    exact ⟨completes_skp hpressed, completes_sknp hpressed⟩
  case fault =>
    have hfault := State.keyPressed_fault hlarge hp
    exact ⟨execSkp_eq_fault hfault, execSknp_eq_fault hfault⟩

/-! ### Fx0A, executed and pending -/

/-- The lowest pressed key is the one that the search answers. -/
theorem LowestPressedIs.lowestPressed {s : State} {k : Fin 16} (h : LowestPressedIs s k) : s.lowestPressed = some k := by
  obtain ⟨hk, hbelow⟩ := h
  obtain ⟨-, hno⟩ | ⟨j, hlow, hj, hjbelow⟩ := s.lowestPressed_cases
  · cases (hno k).symm.trans hk
  · obtain hlt | rfl | hgt := lt_trichotomy j k
    · cases (hbelow j hlt).symm.trans hj
    · exact hlow
    · cases (hjbelow k hgt).symm.trans hk

theorem keyByte_toNat (k : Fin 16) : (keyByte k).toNat = k.val := by
  rw [keyByte, BitVec.toNat_ofNat]
  omega

theorem execLdVxK_pressed {s : State} {k : Fin 16} (x : Nibble) (h : s.lowestPressed = some k) :
    exec (.ldVxK x) s = .next (s.setReg x (keyByte k)).advance := by
  simp only [exec, execLdVxK, h]

theorem execLdVxK_suspends {s : State} (x : Nibble) (h : s.lowestPressed = none) :
    exec (.ldVxK x) s = .next (s.setMode (.awaitingKey x)) := by
  simp only [exec, execLdVxK, h]

/-- Settles O49, by the search for a pressed key. -/
theorem keyWaitCompletesOrSuspends : Obligations.KeyWaitCompletesOrSuspends := by
  refine fun s x => ⟨fun k hk => ⟨_, execLdVxK_pressed x hk.lowestPressed, ?key, rfl, onlyRegs_setReg_advance s x _⟩,
    fun hno => ⟨_, execLdVxK_suspends x (noKeyPressed_iff.1 hno), rfl, fun _ _ => rfl, fun _ => rfl⟩⟩
  case key => rw [State.reg_advance, State.reg_setReg_same, keyByte_toNat]

/-- The cycle of an Fx0A that finds a key, fetched or pending, writes it and leaves no wait pending. -/
theorem step_keyWait_key {s : State} {r : Nibble} {k : Fin 16} (hrun : s.run = .running) (hwait : RunsKeyWait s r)
    (hlow : s.lowestPressed = some k) : step s = .next ((s.setReg r (keyByte k)).setMode .free).advance.endCycle := by
  obtain hmode | ⟨hmode, op, hfetch, hdec⟩ := hwait
  · rw [step_waiting hrun hmode, resolveWait, hlow]
  · have hsame : (s.setReg r (keyByte k)).setMode .free = s.setReg r (keyByte k) := by
      rw [← hmode]
      rfl
    rw [step_of_exec_next ⟨hrun, hmode⟩ hfetch hdec (execLdVxK_pressed r hlow), hsame]

/-- Settles O50: a pending wait is a cycle of Fx0A, whose end is known for either result of the search. -/
theorem pendingWaitResolvesOnAKey : Obligations.PendingWaitResolvesOnAKey := by
  refine fun s r hrun hmode => ⟨fun k hk =>
    ⟨_, step_keyWait_key hrun (.inl hmode) hk.lowestPressed, ?key, rfl, rfl, rfl, fun j hj => ?regs, fun _ => rfl⟩,
    fun hno => ?noKey⟩
  case key => rw [State.reg_advance, State.reg_setMode, State.reg_setReg_same, keyByte_toNat]
  case regs => rw [State.reg_advance, State.reg_setMode, State.reg_setReg, if_neg (by simpa using hj)]
  case noKey => rw [step_waiting hrun hmode, resolveWait, noKeyPressed_iff.1 hno]

/-- Settles O51: with and without the wait pending, the cycle is one of the same Fx0A, in states with the same keys. -/
theorem waitEqualsReexecution : Obligations.WaitEqualsReexecution := by
  intro s r hrun hmode hfetch
  have hpending : RunsKeyWait s r := .inl hmode
  have hagain : RunsKeyWait (s.setMode .free) r := .inr ⟨rfl, _, hfetch, decodeInvertsEncode (.ldVxK r)⟩
  show step s = step (s.setMode .free)
  cases hlow : s.lowestPressed with
  | some k =>
    rw [step_keyWait_key hrun hpending hlow, step_keyWait_key (s := s.setMode .free) hrun hagain hlow]
    rfl
  | none =>
    have hno : NoKeyPressed s := noKeyPressed_iff.2 hlow
    rw [step_keyWait_no_key hrun hpending hno, step_keyWait_no_key (s := s.setMode .free) hrun hagain hno]
    rfl

end Sys2Proof.Machine
end

section
/-! PROOFS. The display (spec 46_display.md): a draw whose rows do not lie in memory (R235). -/

namespace Sys2Proof.Machine

/-- Settles O54, by the range check. -/
theorem drawPastMemoryFaults : Obligations.DrawPastMemoryFaults := by
  intro s x y n hn hpast
  have hpos : 0 < n.toNat := Nat.pos_of_ne_zero fun e => hn (BitVec.eq_of_toNat_eq e)
  simp only [exec, execDrw, rangeFault_eq_some hpos hpast]

end Sys2Proof.Machine
end

section
/-! PROOFS. The block's boundary (spec 10_state.md R40, R50 to R57, 70_reset_and_hazards.md R280 to R284): what the
inputs write, the halted block (60_exceptions.md R262), and the values after reset. -/

namespace Sys2Proof.Machine

/-! ### Load -/

/-- A load is not accepted once a cycle has run, nor while halted. -/
theorem State.loadInput_ignored {s : State} (bytes : List Byte) (origin : Nat)
    (h : s.started = true ∨ ∃ f, s.run = .halted f) : s.loadInput bytes origin = s := by
  obtain ⟨hrun, hstarted, -⟩ | ⟨-, hsame⟩ := s.loadInput_cases bytes origin
  · obtain hs | ⟨f, hf⟩ := h
    · cases hstarted.symm.trans hs
    · cases hrun.symm.trans hf
  · exact hsame

/-- A load that is accepted and fails its check halts with the fault. -/
theorem State.loadInput_halts {s : State} {bytes : List Byte} {origin : Nat} {f : Fault} (hrun : s.run = .running)
    (hstarted : s.started = false) (h : loadFault bytes.length origin = some f) :
    s.loadInput bytes origin = s.halt f := by
  simp only [State.loadInput, hrun, hstarted, h]

/-- A load that is accepted and passes its check stores its bytes. -/
theorem State.loadInput_stores {s : State} {bytes : List Byte} {origin : Nat} (hrun : s.run = .running)
    (hstarted : s.started = false) (h : loadFault bytes.length origin = none) :
    s.loadInput bytes origin = s.storeBytes origin bytes := by
  simp only [State.loadInput, hrun, hstarted, h]

theorem loadFault_overlaps_font (len : Nat) {origin : Nat} (h : origin < 0x0A0) :
    loadFault len origin = some (.loadOverlapsFont origin) := if_pos h

theorem loadFault_too_large {len origin : Nat} (h : 0x0A0 ≤ origin) (hlen : 0x1000 < origin + len) :
    loadFault len origin = some (.romTooLarge len) := (if_neg (Nat.not_lt.2 h)).trans (if_pos hlen)

theorem loadFault_fits {len origin : Nat} (h : 0x0A0 ≤ origin) (hlen : origin + len ≤ 0x1000) :
    loadFault len origin = none := (if_neg (Nat.not_lt.2 h)).trans (if_neg (Nat.not_lt.2 hlen))

/-- A load writes memory and RUN alone. -/
theorem State.loadInput_eq (s : State) (bytes : List Byte) (origin : Nat) :
    s.loadInput bytes origin =
      { s with mem := (s.loadInput bytes origin).mem, run := (s.loadInput bytes origin).run } := by
  obtain ⟨-, -, ⟨f, -, hl⟩ | ⟨-, -, hl⟩⟩ | ⟨-, hl⟩ := s.loadInput_cases bytes origin
  · rw [hl]
    rfl
  · rw [hl, State.storeBytes_eq]
  · rw [hl]

/-- Settles O57, by the check of the load, the font before the size. -/
theorem loadPlacesBytesOrRefuses : Obligations.LoadPlacesBytesOrRefuses := by
  refine fun s bytes origin => ⟨fun hrun hstarted hlow => ?overlaps, fun hrun hstarted hlow hlen => ?tooLarge,
    fun hrun hstarted hlow hlen => ?stores, rfl, fun hstarted => ?ignored⟩
  case overlaps =>
    exact congrArg _ (State.loadInput_halts hrun hstarted (loadFault_overlaps_font _ hlow))
  case tooLarge =>
    exact congrArg _ (State.loadInput_halts hrun hstarted (loadFault_too_large hlow hlen))
  case stores =>
    refine ⟨_, congrArg _ (State.loadInput_stores hrun hstarted (loadFault_fits hlow hlen)), s.storeBytes_eq _ _,
      fun k hk => s.byteAt_storeBytes_at _ hk, sameMemoryOutside_storeBytes s _ _⟩
  case ignored => exact congrArg _ (State.loadInput_ignored bytes origin (.inl hstarted))

/-! ### The other host events -/

/-- A tick writes the timers alone. -/
theorem State.tickInput_eq (s : State) : s.tickInput = { s with dt := s.tickInput.dt, st := s.tickInput.st } := by
  obtain ⟨-, -, ht⟩ | ⟨-, ht⟩ := s.tickInput_cases
  · rw [ht]
    rfl
  · rw [ht]

theorem State.tickInput_independent {s : State} (hmode : s.cfg.tickMode = .independent) (hrun : s.run = .running) :
    s.tickInput = s.tickTimers := by
  simp only [State.tickInput, hmode, hrun]

theorem State.tickInput_coupled {s : State} (h : s.cfg.tickMode = .coupled) : s.tickInput = s := by
  simp only [State.tickInput, h]

/-- Settles O24, event by event. -/
theorem hostEventsWriteOnlyTheirLocations : Obligations.HostEventsWriteOnlyTheirLocations := by
  refine fun s => ⟨fun k p => ⟨_, rfl, rfl, ?key, fun j hj => ?otherKeys⟩, ⟨_, rfl, rfl⟩, ⟨_, rfl, rfl⟩,
    ⟨_, rfl, s.tickInput_eq, fun hmode hrun => ?ticks, State.tickInput_coupled, fun f => State.tickInput_halted⟩,
    fun bytes origin => ⟨_, rfl, s.loadInput_eq bytes _⟩⟩
  case key => rw [State.key_setKey, if_pos rfl]
  case otherKeys => rw [State.key_setKey, if_neg hj]
  case ticks =>
    rw [State.tickInput_independent hmode hrun]
    exact ⟨rfl, countDown_toNat s.dt, countDown_toNat s.st⟩

/-- Settles O11: a halted block's cycle, tick and load leave it, a key event and `consume_redraw` keep RUN, and `quit`
halts. -/
theorem haltedBlockStaysHalted : Obligations.HaltedBlockStaysHalted := by
  intro s f hrun
  have hcycle : s.accept .cycle = .next s := step_halted hrun
  have htick : s.accept .tick = .next s := congrArg _ (State.tickInput_halted hrun)
  have hload (bytes : List Byte) (origin : Option Nat) : s.accept (.load bytes origin) = .next s :=
    congrArg _ (State.loadInput_ignored bytes _ (.inr ⟨f, hrun⟩))
  refine ⟨hcycle, htick, hload, fun k p => ⟨rfl, ?key⟩, rfl, fun e t hreset ht => ?staysHalted⟩
  case key => rw [State.key_setKey, if_pos rfl]
  case staysHalted =>
    cases e
    case reset u => exact absurd rfl (hreset u)
    case cycle =>
      cases hcycle.symm.trans ht
      exact ⟨f, hrun⟩
    case tick =>
      cases htick.symm.trans ht
      exact ⟨f, hrun⟩
    case load bytes origin =>
      cases (hload bytes origin).symm.trans ht
      exact ⟨f, hrun⟩
    case keyEvent | consumeRedraw =>
      cases ht
      exact ⟨f, hrun⟩
    case quit =>
      cases ht
      exact ⟨.quit, rfl⟩

/-! ### Reset -/

/-- Settles O15: no memory is listed, the stack is empty, and no wait is pending. -/
theorem invariantHoldsAtReset : Obligations.InvariantHoldsAtReset where
  memory := State.wf_reset
  pcBound := by decide
  stackBound k hk := absurd hk (Nat.not_lt_zero _)
  waiting _ hr := nomatch hr

/-- The font region reads as the font: five bytes a glyph. -/
theorem unlistedByte_font (font : Vector (Vector Byte 5) 16) (d : Fin 16) (k : Fin 5) :
    unlistedByte font (0x050 + 5 * d.val + k.val) = (font[d.val])[k.val] := by
  have hglyph : (0x050 + 5 * d.val + k.val - fontBase) / 5 = d.val := by
    unfold fontBase
    omega
  have hbyte : (0x050 + 5 * d.val + k.val - fontBase) % 5 = k.val := by
    unfold fontBase
    omega
  have hlow : ¬0x050 + 5 * d.val + k.val < fontBase := by
    unfold fontBase
    omega
  simp [unlistedByte, hglyph, hbyte, hlow]

/-- Outside the font region an unlisted address reads as 0. -/
theorem unlistedByte_outside (font : Vector (Vector Byte 5) 16) {a : Nat} (h : a < 0x050 ∨ 0x09F < a) :
    unlistedByte font a = 0 := by
  obtain hlow | hhigh := h
  · unfold unlistedByte
    split
    · exact if_pos hlow
    · rfl
  · have hnone : font[(a - fontBase) / 5]? = none := by
      rw [Vector.getElem?_eq_none_iff]
      unfold fontBase
      omega
    rw [unlistedByte, hnone]

theorem inFont_iff {a : Nat} : inFont a = true ↔ 0x050 ≤ a ∧ a ≤ 0x09F := by
  rw [inFont, Bool.and_eq_true, decide_eq_true_eq, decide_eq_true_eq, fontBase, fontEnd, Nat.lt_succ_iff]

/-- Every byte of the zero reset is unlisted. -/
theorem byteAt_resetZero (cfg : Params) (draws a : Nat) : (resetZero cfg draws).byteAt a = unlistedByte cfg.font a := rfl

/-- The bytes of the unspecified reset are those of the zero reset with the given cells filled in. -/
theorem byteAt_resetUnspecified (cfg : Params) (draws : Nat) (u : InitValues) (a : Nat) :
    (resetUnspecified cfg draws u).byteAt a = ((resetZero cfg draws).fillMemory u.mem).byteAt a := by
  have hcfg : ((resetZero cfg draws).fillMemory u.mem).cfg = cfg := by rw [State.fillMemory_eq, resetZero]
  have hmem : (resetUnspecified cfg draws u).mem = ((resetZero cfg draws).fillMemory u.mem).mem := rfl
  exact State.byteAt_congr hmem hcfg.symm a

theorem byteAt_resetUnspecified_unlisted (cfg : Params) (draws : Nat) {u : InitValues} {a : Nat}
    (h : (∀ c ∈ u.mem, c.1 ≠ a) ∨ memSize ≤ a ∨ inFont a = true) :
    (resetUnspecified cfg draws u).byteAt a = unlistedByte cfg.font a := by
  rw [byteAt_resetUnspecified, State.byteAt_fillMemory_other _ _ a h, byteAt_resetZero]

/-- Settles O56, by the policy: the zero reset lists no byte; the unspecified one fills in the cells that lie outside the
font region, and takes the other values as they are given. -/
theorem resetLeavesTheStatedValues : Obligations.ResetLeavesTheStatedValues := by
  intro s u
  refine ⟨s.resetInput u, rfl, ?_⟩
  unfold State.resetInput
  cases hinit : s.cfg.init with
  | zero =>
    refine ⟨rfl, rfl, rfl, rfl, rfl, rfl, unlistedByte_font s.cfg.font, fun _ => ?values, nofun⟩
    case values =>
      refine ⟨fun a => unlistedByte_outside s.cfg.font, fun j => ?regs, rfl, rfl, fun k => ?stack, fun k => ?keys, rfl,
        Display.get_blank, rfl, rfl⟩
      case regs => exact Vector.getElem_replicate _
      case stack => exact Vector.getElem_replicate _
      case keys => exact Vector.getElem_replicate _
  | unspecified =>
    refine ⟨rfl, rfl, rfl, rfl, rfl, rfl, fun d k => ?font, nofun, fun _ => ⟨fun l r a b hmem hlast ha => ?last,
      fun a hnone ha => ?none, rfl, rfl, rfl, rfl, rfl, rfl, rfl, rfl, rfl⟩⟩
    case font =>
      have hin : inFont (0x050 + 5 * d.val + k.val) = true := inFont_iff.2 (by omega)
      rw [byteAt_resetUnspecified_unlisted _ _ (.inr (.inr hin)), unlistedByte_font]
    case last =>
      have hin : a < memSize := by
        unfold memSize
        omega
      have hout : inFont a = false := Bool.eq_false_iff.2 (mt inFont_iff.1 (by omega))
      rw [byteAt_resetUnspecified, hmem, State.byteAt_fillMemory_last _ l r a b hlast hin hout]
    case none => rw [byteAt_resetUnspecified_unlisted _ _ (.inl hnone), unlistedByte_outside _ ha]

end Sys2Proof.Machine
end
